-- ==== Sys2Proof/Word.lean ====
section
/-!
DEFINITION. The word types of the CHIP-8 core: what 00_scope.md R10 and 10_state.md R30 treat as bits is a bit
vector; a register index is one of sixteen.
-/

namespace Sys2Proof

/-- An 8-bit value: a general register, a timer, a memory byte, an immediate NN (R7, R103). -/
abbrev Byte := BitVec 8

/-- A 16-bit value: an opcode, I, PC, a stack entry, the key bitmask (R7). -/
abbrev Word := BitVec 16

/-- A 12-bit address operand NNN (R101, R103). -/
abbrev Addr := BitVec 12

/-- One framebuffer row of 64 pixels (R39). -/
abbrev FbRow := BitVec 64

/-- The index of a general register V0..VF, an opcode's X or Y field (R31, R101). -/
abbrev Reg := Fin 16

/-- The count N of DXYN, 0..15 (R101, R103). -/
abbrev Nibble := Fin 16

/-- VF, the register that is also the flag (R32). -/
abbrev VF : Reg := 15

end Sys2Proof
end

