-- ==== Sys2Proof/Syntax.lean ====
section
/-!
DEFINITION. The 35 instructions of spec/opcode_table.json, one constructor per row (30_encoding.md R104, R106), with
the operands R102 gives each format.
-/

namespace Sys2Proof

/-- The decoded instruction: "one explicit instruction value" (R104). SHR and SHL keep their unused Y field, so that
no bit of the encoding is lost (R102). -/
inductive Instr where
  /-- 00E0 CLS (R260). -/
  | cls
  /-- 00EE RET (R161). -/
  | ret
  /-- 0NNN SYS addr (R160). -/
  | sys (nnn : Addr)
  /-- 1NNN JP addr (R162). -/
  | jp (nnn : Addr)
  /-- 2NNN CALL addr (R163). -/
  | call (nnn : Addr)
  /-- 3XNN SE Vx, byte (R165). -/
  | seByte (x : Reg) (nn : Byte)
  /-- 4XNN SNE Vx, byte (R166). -/
  | sneByte (x : Reg) (nn : Byte)
  /-- 5XY0 SE Vx, Vy (R167). -/
  | seReg (x y : Reg)
  /-- 6XNN LD Vx, byte (R190). -/
  | ldByte (x : Reg) (nn : Byte)
  /-- 7XNN ADD Vx, byte (R191). -/
  | addByte (x : Reg) (nn : Byte)
  /-- 8XY0 LD Vx, Vy (R192). -/
  | ldReg (x y : Reg)
  /-- 8XY1 OR Vx, Vy (R193). -/
  | orReg (x y : Reg)
  /-- 8XY2 AND Vx, Vy (R194). -/
  | andReg (x y : Reg)
  /-- 8XY3 XOR Vx, Vy (R195). -/
  | xorReg (x y : Reg)
  /-- 8XY4 ADD Vx, Vy (R196). -/
  | addReg (x y : Reg)
  /-- 8XY5 SUB Vx, Vy (R197). -/
  | subReg (x y : Reg)
  /-- 8XY6 SHR Vx, Vy (R198). -/
  | shr (x y : Reg)
  /-- 8XY7 SUBN Vx, Vy (R199). -/
  | subnReg (x y : Reg)
  /-- 8XYE SHL Vx, Vy (R200). -/
  | shl (x y : Reg)
  /-- 9XY0 SNE Vx, Vy (R168). -/
  | sneReg (x y : Reg)
  /-- ANNN LD I, addr (R230). -/
  | ldI (nnn : Addr)
  /-- BNNN JP V0, addr (R164). -/
  | jpV0 (nnn : Addr)
  /-- CXNN RND Vx, byte (R201). -/
  | rnd (x : Reg) (nn : Byte)
  /-- DXYN DRW Vx, Vy, nibble (R261). -/
  | drw (x y : Reg) (n : Nibble)
  /-- EX9E SKP Vx (R290). -/
  | skp (x : Reg)
  /-- EXA1 SKNP Vx (R291). -/
  | sknp (x : Reg)
  /-- FX07 LD Vx, DT (R292). -/
  | ldVxDt (x : Reg)
  /-- FX0A LD Vx, K (R293). -/
  | ldVxK (x : Reg)
  /-- FX15 LD DT, Vx (R294). -/
  | ldDtVx (x : Reg)
  /-- FX18 LD ST, Vx (R295). -/
  | ldStVx (x : Reg)
  /-- FX1E ADD I, Vx (R231). -/
  | addI (x : Reg)
  /-- FX29 LD F, Vx (R232). -/
  | ldF (x : Reg)
  /-- FX33 LD B, Vx (R233). -/
  | ldB (x : Reg)
  /-- FX55 LD [I], Vx (R234). -/
  | ldMemVx (x : Reg)
  /-- FX65 LD Vx, [I] (R235). -/
  | ldVxMem (x : Reg)
  deriving DecidableEq, Repr

end Sys2Proof
end

