-- ==== Sys2Proof/Decode.lean ====
section
/-!
DEFINITION. The decoder of 30_encoding.md R104, total on all 65536 words and on any list of bytes, and the encoder
written from the layouts of R102. No mode changes decoding (R100).
-/

namespace Sys2Proof

/-! ## The fields of an opcode (R101) -/

/-- The class, op[15:12]. -/
def opClass (op : Word) : BitVec 4 := op.extractLsb' 12 4

/-- The X field, op[11:8]. -/
def opX (op : Word) : Reg := (op.extractLsb' 8 4).toFin

/-- The Y field, op[7:4]. -/
def opY (op : Word) : Reg := (op.extractLsb' 4 4).toFin

/-- The N field, op[3:0]. -/
def opN (op : Word) : Nibble := (op.extractLsb' 0 4).toFin

/-- The NN field, op[7:0]. -/
def opNN (op : Word) : Byte := op.extractLsb' 0 8

/-- The NNN field, op[11:0]. -/
def opNNN (op : Word) : Addr := op.extractLsb' 0 12

/-! ## Decode (R104, R105) -/

/-- Class 0: the two exact patterns first, every other word is SYS (R105). -/
def decodeClass0 (op : Word) : Instr :=
  if op = 0x00E0#16 then .cls
  else if op = 0x00EE#16 then .ret
  else .sys (opNNN op)

/-- Class 8: the sub-operation is N; N in 8..D and F is illegal (R107). -/
def decodeClass8 (op : Word) : Option Instr :=
  match (opN op).val with
  | 0x0 => some (.ldReg (opX op) (opY op))
  | 0x1 => some (.orReg (opX op) (opY op))
  | 0x2 => some (.andReg (opX op) (opY op))
  | 0x3 => some (.xorReg (opX op) (opY op))
  | 0x4 => some (.addReg (opX op) (opY op))
  | 0x5 => some (.subReg (opX op) (opY op))
  | 0x6 => some (.shr (opX op) (opY op))
  | 0x7 => some (.subnReg (opX op) (opY op))
  | 0xE => some (.shl (opX op) (opY op))
  | _ => none

/-- Class E: the sub-operation is NN. -/
def decodeClassE (op : Word) : Option Instr :=
  match (opNN op).toNat with
  | 0x9E => some (.skp (opX op))
  | 0xA1 => some (.sknp (opX op))
  | _ => none

/-- Class F: the sub-operation is NN. -/
def decodeClassF (op : Word) : Option Instr :=
  match (opNN op).toNat with
  | 0x07 => some (.ldVxDt (opX op))
  | 0x0A => some (.ldVxK (opX op))
  | 0x15 => some (.ldDtVx (opX op))
  | 0x18 => some (.ldStVx (opX op))
  | 0x1E => some (.addI (opX op))
  | 0x29 => some (.ldF (opX op))
  | 0x33 => some (.ldB (opX op))
  | 0x55 => some (.ldMemVx (opX op))
  | 0x65 => some (.ldVxMem (opX op))
  | _ => none

/-- The decoder of R104; none is its ILLEGAL. -/
def decode (op : Word) : Option Instr :=
  match (opClass op).toNat with
  | 0x0 => some (decodeClass0 op)
  | 0x1 => some (.jp (opNNN op))
  | 0x2 => some (.call (opNNN op))
  | 0x3 => some (.seByte (opX op) (opNN op))
  | 0x4 => some (.sneByte (opX op) (opNN op))
  | 0x5 => if opN op = 0 then some (.seReg (opX op) (opY op)) else none
  | 0x6 => some (.ldByte (opX op) (opNN op))
  | 0x7 => some (.addByte (opX op) (opNN op))
  | 0x8 => decodeClass8 op
  | 0x9 => if opN op = 0 then some (.sneReg (opX op) (opY op)) else none
  | 0xA => some (.ldI (opNNN op))
  | 0xB => some (.jpV0 (opNNN op))
  | 0xC => some (.rnd (opX op) (opNN op))
  | 0xD => some (.drw (opX op) (opY op) (opN op))
  | 0xE => decodeClassE op
  | 0xF => decodeClassF op
  | _ => none

/-- An opcode from its two bytes in memory order: the byte at the lower address is the high byte (R73, R74). -/
def wordOfBytes (hi lo : Byte) : Word := hi ++ lo

/-- The high byte of an opcode, stored at the lower address (R73). -/
def highByte (op : Word) : Byte := op.extractLsb' 8 8

/-- The low byte of an opcode, stored at the higher address (R73). -/
def lowByte (op : Word) : Byte := op.extractLsb' 0 8

/-- The bytes of an opcode in memory order (R73). -/
def bytesOfWord (op : Word) : List Byte := [highByte op, lowByte op]

/-- Why a list of bytes starts with no instruction. -/
inductive DecodeError where
  /-- Fewer than two bytes are left; every instruction has two (R100). Raised by decodeBytes only; the core's fetch
  checks its range first (R132). Safe. -/
  | truncated
  /-- The word is one of the 17488 illegal ones (R107). Safe: the core raises IllegalOpcode for it (R131). -/
  | illegalOpcode (op : Word)
  deriving DecidableEq, Repr

/-- Decode the first instruction of any list of bytes and give the rest, or reject by name. -/
def decodeBytes : List Byte → Except DecodeError (Instr × List Byte)
  | hi :: lo :: rest =>
    match decode (wordOfBytes hi lo) with
    | some i => .ok (i, rest)
    | none => .error (.illegalOpcode (wordOfBytes hi lo))
  | _ => .error .truncated

/-! ## Encode (R102) -/

/-- Layout `c n n n`. -/
def packNNN (c : BitVec 4) (nnn : Addr) : Word := c ++ nnn

/-- Layout `c x n n`, and `c x s s` with s s a fixed byte. -/
def packXNN (c : BitVec 4) (x : Reg) (nn : Byte) : Word := (c ++ BitVec.ofFin (w := 4) x) ++ nn

/-- Layout `c x y n`, and `c x y s` with s a fixed nibble. -/
def packXYN (c : BitVec 4) (x y : Reg) (n : Nibble) : Word :=
  ((c ++ BitVec.ofFin (w := 4) x) ++ BitVec.ofFin (w := 4) y) ++ BitVec.ofFin (w := 4) n

/-- The word of an instruction: opcode_table.json's match with the operands in their fields (R102, R106). -/
def encode : Instr → Word
  | .cls => 0x00E0#16
  | .ret => 0x00EE#16
  | .sys nnn => packNNN 0x0#4 nnn
  | .jp nnn => packNNN 0x1#4 nnn
  | .call nnn => packNNN 0x2#4 nnn
  | .seByte x nn => packXNN 0x3#4 x nn
  | .sneByte x nn => packXNN 0x4#4 x nn
  | .seReg x y => packXYN 0x5#4 x y 0x0
  | .ldByte x nn => packXNN 0x6#4 x nn
  | .addByte x nn => packXNN 0x7#4 x nn
  | .ldReg x y => packXYN 0x8#4 x y 0x0
  | .orReg x y => packXYN 0x8#4 x y 0x1
  | .andReg x y => packXYN 0x8#4 x y 0x2
  | .xorReg x y => packXYN 0x8#4 x y 0x3
  | .addReg x y => packXYN 0x8#4 x y 0x4
  | .subReg x y => packXYN 0x8#4 x y 0x5
  | .shr x y => packXYN 0x8#4 x y 0x6
  | .subnReg x y => packXYN 0x8#4 x y 0x7
  | .shl x y => packXYN 0x8#4 x y 0xE
  | .sneReg x y => packXYN 0x9#4 x y 0x0
  | .ldI nnn => packNNN 0xA#4 nnn
  | .jpV0 nnn => packNNN 0xB#4 nnn
  | .rnd x nn => packXNN 0xC#4 x nn
  | .drw x y n => packXYN 0xD#4 x y n
  | .skp x => packXNN 0xE#4 x 0x9E#8
  | .sknp x => packXNN 0xE#4 x 0xA1#8
  | .ldVxDt x => packXNN 0xF#4 x 0x07#8
  | .ldVxK x => packXNN 0xF#4 x 0x0A#8
  | .ldDtVx x => packXNN 0xF#4 x 0x15#8
  | .ldStVx x => packXNN 0xF#4 x 0x18#8
  | .addI x => packXNN 0xF#4 x 0x1E#8
  | .ldF x => packXNN 0xF#4 x 0x29#8
  | .ldB x => packXNN 0xF#4 x 0x33#8
  | .ldMemVx x => packXNN 0xF#4 x 0x55#8
  | .ldVxMem x => packXNN 0xF#4 x 0x65#8

/-! ## The opcode table's fixed bits -/

/-- The fixed bits of an instruction's row in spec/opcode_table.json, as (hi, lo, value). -/
def Instr.fixedFields : Instr → List (Nat × Nat × Nat)
  | .cls => [(15, 0, 0xE0)]
  | .ret => [(15, 0, 0xEE)]
  | .sys _ => [(15, 12, 0x0)]
  | .jp _ => [(15, 12, 0x1)]
  | .call _ => [(15, 12, 0x2)]
  | .seByte _ _ => [(15, 12, 0x3)]
  | .sneByte _ _ => [(15, 12, 0x4)]
  | .seReg _ _ => [(3, 0, 0x0), (15, 12, 0x5)]
  | .ldByte _ _ => [(15, 12, 0x6)]
  | .addByte _ _ => [(15, 12, 0x7)]
  | .ldReg _ _ => [(3, 0, 0x0), (15, 12, 0x8)]
  | .orReg _ _ => [(3, 0, 0x1), (15, 12, 0x8)]
  | .andReg _ _ => [(3, 0, 0x2), (15, 12, 0x8)]
  | .xorReg _ _ => [(3, 0, 0x3), (15, 12, 0x8)]
  | .addReg _ _ => [(3, 0, 0x4), (15, 12, 0x8)]
  | .subReg _ _ => [(3, 0, 0x5), (15, 12, 0x8)]
  | .shr _ _ => [(3, 0, 0x6), (15, 12, 0x8)]
  | .subnReg _ _ => [(3, 0, 0x7), (15, 12, 0x8)]
  | .shl _ _ => [(3, 0, 0xE), (15, 12, 0x8)]
  | .sneReg _ _ => [(3, 0, 0x0), (15, 12, 0x9)]
  | .ldI _ => [(15, 12, 0xA)]
  | .jpV0 _ => [(15, 12, 0xB)]
  | .rnd _ _ => [(15, 12, 0xC)]
  | .drw _ _ _ => [(15, 12, 0xD)]
  | .skp _ => [(7, 0, 0x9E), (15, 12, 0xE)]
  | .sknp _ => [(7, 0, 0xA1), (15, 12, 0xE)]
  | .ldVxDt _ => [(7, 0, 0x7), (15, 12, 0xF)]
  | .ldVxK _ => [(7, 0, 0xA), (15, 12, 0xF)]
  | .ldDtVx _ => [(7, 0, 0x15), (15, 12, 0xF)]
  | .ldStVx _ => [(7, 0, 0x18), (15, 12, 0xF)]
  | .addI _ => [(7, 0, 0x1E), (15, 12, 0xF)]
  | .ldF _ => [(7, 0, 0x29), (15, 12, 0xF)]
  | .ldB _ => [(7, 0, 0x33), (15, 12, 0xF)]
  | .ldMemVx _ => [(7, 0, 0x55), (15, 12, 0xF)]
  | .ldVxMem _ => [(7, 0, 0x65), (15, 12, 0xF)]

/-- The word that spec/opcode_table.json's bit numbering gives: one 16-bit word, bit 0 its least significant bit, every
bit above `nbits` zero. -/
def tableWord (nbits w : Nat) : Word := BitVec.ofNat 16 (w % 2 ^ nbits)

/-- The instruction the decoder reads from the bytes the hardware stores for a table word. -/
def decodeTableWord (nbits w : Nat) : Option Instr :=
  match decodeBytes (bytesOfWord (tableWord nbits w)) with
  | .ok (i, _) => some i
  | .error _ => none

end Sys2Proof
end

