-- ==== Sys2Proof/Config.lean ====
section
/-!
DEFINITION. The named parameters of 00_scope.md R8, the inputs of a step (R9), and the free values: what the spec
leaves open stands here as constants without a body, so that nothing can be proved of their values.
-/

namespace Sys2Proof

/-- The parameters of R8. "Each is a value the model takes as an argument": they ride in the state and no step changes
them (notes/assumptions/1.md). -/
structure Config where
  /-- TICK_PERIOD: model time units in one 1/60 s tick (D2). -/
  tickPeriod : Nat
  /-- MAX_CATCHUP_TICKS: most timer decrements one step may perform (D3). -/
  maxCatchup : Nat
  /-- FONT: the contents of memory[0x000..0x04F] at reset (D4). -/
  font : Vector Byte 80
  /-- FONT_WRITE_PROTECT: whether a store into 0x000..0x04F faults (D5). -/
  fontWriteProtect : Bool
  /-- FETCH_ALIGN_CHECK: whether a fetch at an odd PC faults (D6). -/
  fetchAlignCheck : Bool
  deriving DecidableEq, Repr

/-- The limits R8 sets on the parameters: TICK_PERIOD > 0 and MAX_CATCHUP_TICKS >= 1. -/
def Config.wf (c : Config) : Bool := decide (0 < c.tickPeriod) && decide (1 ≤ c.maxCatchup)

/-- What the host passes to one step (R9): the time, a random byte, and the key bitmask it has last written. -/
structure StepInput where
  /-- The current time, in model time units (R351). -/
  now : Nat
  /-- The random byte, consumed only by CXNN (R141). -/
  rnd : Byte
  /-- The key bitmask as the host last wrote it before this step (R44, R350). -/
  keys : Word
  deriving DecidableEq, Repr, Inhabited

/-- Free value: the host's inputs to the k-th step, where no inputs are lined up. Nothing constrains it
(R9, R141, U6; notes/assumptions/4.md). -/
opaque Config.freeInput : Nat → StepInput

/-- Free value: TICK_PERIOD of the reset state, less one (D2 OPEN; notes/assumptions/2.md). -/
opaque Config.openTickPeriod : Nat

/-- Free value: MAX_CATCHUP_TICKS of the reset state, less one (D3 OPEN; notes/assumptions/2.md). -/
opaque Config.openMaxCatchup : Nat

/-- Free value: now0, the time of reset (R370, D26; notes/assumptions/7.md). -/
opaque Config.resetTime : Nat

end Sys2Proof
end

