-- ==== Sys2Proof/Machine/Params.lean ====
section
/-!
DEFINITION. The default values of the parameters of 00_scope.md R8 and what a memory byte reads as at reset
(10_state.md R52).
-/

namespace Sys2Proof.Machine

/-- Glyphs 0 to 7 of the default FONT (93_implementation_defined.md G1). -/
def fontGlyphs0to7 : Vector Byte 40 := #v[
  0xF0, 0x90, 0x90, 0x90, 0xF0,
  0x20, 0x60, 0x20, 0x20, 0x70,
  0xF0, 0x10, 0xF0, 0x80, 0xF0,
  0xF0, 0x10, 0xF0, 0x10, 0xF0,
  0x90, 0x90, 0xF0, 0x10, 0x10,
  0xF0, 0x80, 0xF0, 0x10, 0xF0,
  0xF0, 0x80, 0xF0, 0x90, 0xF0,
  0xF0, 0x10, 0x20, 0x40, 0x40]

/-- Glyphs 8 to F of the default FONT (93_implementation_defined.md G1). -/
def fontGlyphs8toF : Vector Byte 40 := #v[
  0xF0, 0x90, 0xF0, 0x90, 0xF0,
  0xF0, 0x90, 0xF0, 0x10, 0xF0,
  0xF0, 0x90, 0xF0, 0x90, 0x90,
  0xE0, 0x90, 0xE0, 0x90, 0xE0,
  0xF0, 0x80, 0x80, 0x80, 0xF0,
  0xE0, 0x90, 0x90, 0x90, 0xE0,
  0xF0, 0x80, 0xF0, 0x80, 0xF0,
  0xF0, 0x80, 0xF0, 0x80, 0x80]

/-- The default FONT, 16 glyphs of 5 bytes (R8, D4, G1). PRESUMED: general knowledge, not in the spec's source
(notes/assumptions/3.md). -/
def standardFont : Vector Byte 80 := fontGlyphs0to7 ++ fontGlyphs8toF

/-- The parameters of the reset state: the defaults of R8, the two OPEN ones unknown constants within R8's limits. -/
def standardConfig : Config where
  tickPeriod := Config.openTickPeriod + 1
  maxCatchup := Config.openMaxCatchup + 1
  font := standardFont
  fontWriteProtect := true
  fetchAlignCheck := true

/-- The number of addresses of the one memory space (R70). -/
abbrev memorySize : Nat := 0x1000

/-- The first address after the font (R72). -/
abbrev fontEnd : Nat := 0x050

/-- The program load address and reset vector (R7, R373). -/
abbrev programBase : Nat := 0x200

/-- The reset contents of memory before the ROM is copied: the font, then zero (R52). An address no store has touched
reads as this (D32). -/
def resetByte (c : Config) (a : Nat) : Byte :=
  if h : a < 80 then c.font[a] else 0

end Sys2Proof.Machine
end

