-- ==== Sys2Proof/Machine/State.lean ====
section
/-!
DEFINITION. The state of the core: every field of 10_state.md R30, the parameters of R8, and the model's own fields
for a step's inputs and outputs. Faults of the core are part of the state (R47); the two stop types stand at the end.
-/

namespace Sys2Proof.Machine

/-- Memory as written: (address, byte) pairs, addresses strictly rising, none equal to the reset contents. -/
abbrev Memory := List Host.Cell

/-- The kinds of fault the core raises (60_exceptions.md R320). Each is latched in State.fault, in a NEXT state. -/
inductive FaultKind where
  | illegalOpcode
  | stackOverflow
  | stackUnderflow
  | addressError
  | misalignedFetch
  | protectedWrite
  | keyIndexRange
  deriving DecidableEq, Repr

/-- The fault record (R321). Its `code` is a function of the kind (Machine/Ops.lean). -/
structure FaultRecord where
  kind : FaultKind
  /-- pc0, the address of the faulting instruction. -/
  pc : Word
  /-- The fetched word; absent for the two fetch faults. -/
  opcode : Option Word
  /-- The offending address or value, an unbounded natural (R231 can report 0x10000); absent for IllegalOpcode,
  StackOverflow and StackUnderflow. -/
  addr : Option Nat
  deriving DecidableEq, Repr

/-- The awaiting-key sub-state's contents (R48): the register to write and the keys last observed. -/
structure KeyWait where
  x : Reg
  prev : Word
  deriving DecidableEq, Repr

/-- The outputs of a step (40_pipeline.md R140). -/
structure StepOutput where
  changed : Bool
  beep : Bool
  raised : Option FaultRecord
  deriving DecidableEq, Repr

/-- The outputs of a step that does nothing visible. -/
def StepOutput.idle : StepOutput where
  changed := false
  beep := false
  raised := none

/-- The machine's state (R30). The last six fields are the model's own (notes/assumptions/1.md, 4.md, 5.md). -/
structure State where
  /-- memory (R70), see Memory. -/
  mem : Memory
  /-- V0..VF (R31). -/
  v : Vector Byte 16
  /-- I (R34). -/
  i : Word
  /-- PC (R35). -/
  pc : Word
  /-- The call stack (R37). -/
  stack : Vector Word 16
  /-- SP, the number of live entries, 0..16 (R37). -/
  sp : Fin 17
  /-- DT (R38). -/
  dt : Byte
  /-- ST (R38). -/
  st : Byte
  /-- The framebuffer (R39). -/
  fb : Vector FbRow 32
  /-- The key bitmask (R41). -/
  keys : Word
  /-- The time of the next timer decrement (R42). -/
  deadline : Nat
  /-- The awaiting-key sub-state (R48). -/
  wait : Option KeyWait
  /-- The fault latch (R47). -/
  fault : Option FaultRecord
  /-- The parameters (R8); constant. -/
  cfg : Config
  /-- The `now` input of the step being executed (R142). -/
  now : Nat
  /-- The `rnd` input of the step being executed (R141). -/
  rnd : Byte
  /-- The inputs the host has lined up for the coming steps, next one first. -/
  inputs : List StepInput
  /-- How many steps have taken an input: the counter of the free value Config.freeInput. -/
  stepNo : Nat
  /-- The outputs of the last step (R140). -/
  out : StepOutput
  deriving DecidableEq, Repr

/-- The reset state with parameters `c` at time `now0`, before the ROM is copied (R52, R370). -/
def State.resetAt (c : Config) (now0 : Nat) : State where
  mem := []
  v := Vector.replicate 16 0
  i := 0
  pc := 0x200
  stack := Vector.replicate 16 0
  sp := 0
  dt := 0
  st := 0
  fb := Vector.replicate 32 0
  keys := 0
  deadline := now0 + c.tickPeriod
  wait := none
  fault := none
  cfg := c
  now := now0
  rnd := 0
  inputs := []
  stepNo := 0
  out := StepOutput.idle

/-- The machine right after reset (R52), with no program loaded (notes/assumptions/8.md). -/
def State.reset : State := State.resetAt standardConfig Config.resetTime

/-- Reasons a step stops with a fault of the MODEL: none. Every fault of the spec is latched in a next state (R325), a
halted core steps on unchanged (R137), and the spec leaves no instruction without an effect (notes/assumptions/6.md). -/
inductive Fault where
  deriving DecidableEq, Repr

/-- Reasons a step is refused. -/
inductive Refusal where
  /-- An instruction with no meaning yet. Raised by exec's refused arms only; no arm is refused now. Safe. -/
  | notModelled (mnemonic : String)
  deriving DecidableEq, Repr

end Sys2Proof.Machine
end

