-- ==== Sys2Proof/Machine/Ops.lean ====
section
/-!
DEFINITION. The named operations over memory, registers, the program counter, the call stack and the framebuffer;
raising a fault as one shared operation; the landing of a step's inputs. There is no return from a fault (R326).
-/

namespace Sys2Proof.Machine

/-! ## Memory (20_memory.md)

`base` is what an address no store has touched reads as (resetByte of the parameters). -/

/-- The byte at address `a`. -/
def Memory.read (base : Nat → Byte) (m : Memory) (a : Nat) : Byte :=
  match m with
  | [] => base a
  | (k, b) :: rest => if k = a then b else Memory.read base rest a

/-- Set the byte at address `a`, keeping the canonical form. -/
def Memory.write (base : Nat → Byte) (m : Memory) (a : Nat) (b : Byte) : Memory :=
  match m with
  | [] => if b = base a then [] else [(a, b)]
  | (k, c) :: rest =>
    if a < k then
      if b = base a then (k, c) :: rest else (a, b) :: (k, c) :: rest
    else if a = k then
      if b = base a then rest else (a, b) :: rest
    else (k, c) :: Memory.write base rest a b

/-- The canonical form from address `lo` on: addresses rise strictly, lie in the address space (R70), and no entry is
what its address reads as anyway. -/
def Memory.wfFrom (base : Nat → Byte) (lo : Nat) : Memory → Bool
  | [] => true
  | (k, b) :: rest =>
    decide (lo ≤ k) && decide (k < memorySize) && (b != base k) && Memory.wfFrom base (k + 1) rest

/-- The canonical form of a memory. -/
def Memory.wf (base : Nat → Byte) (m : Memory) : Bool := Memory.wfFrom base 0 m

/-- MemRead(a, 1) (R12). -/
def State.readByte (s : State) (a : Nat) : Byte := Memory.read (resetByte s.cfg) s.mem a

/-- MemWrite(a, 1, b) (R12). -/
def State.writeByte (s : State) (a : Nat) (b : Byte) : State :=
  { s with mem := Memory.write (resetByte s.cfg) s.mem a b }

/-- Store bytes at consecutive ascending addresses (R77). -/
def State.storeBytes (s : State) (a : Nat) : List Byte → State
  | [] => s
  | b :: bs => State.storeBytes (s.writeByte a b) (a + 1) bs

/-! ## Registers (10_state.md) -/

/-- The value of Vx (R31). -/
def State.reg (s : State) (x : Reg) : Byte := s.v[x.val]

/-- V[x] <- b (R31). -/
def State.setReg (s : State) (x : Reg) (b : Byte) : State := { s with v := s.v.set x.val b }

/-- The first x + 1 registers, V0..Vx (R77). -/
def State.regsUpTo (s : State) (x : Reg) : List Byte := s.v.toList.take (x.val + 1)

/-- V[k] <- memory[a + k] for k in 0..n-1, in that order (R235). -/
def State.loadRegs (s : State) (a : Nat) : Nat → State
  | 0 => s
  | k + 1 => (s.loadRegs a k).setReg (Fin.ofNat 16 k) (s.readByte (a + k))

/-- I <- w (R34). -/
def State.setI (s : State) (w : Word) : State := { s with i := w }

/-! ## Program counter (R133) -/

/-- The fetch increment: PC <- PC + 2. -/
def State.advance (s : State) : State := { s with pc := s.pc + 2 }

/-- PC <- target. -/
def State.jump (s : State) (target : Word) : State := { s with pc := target }

/-- The skip of R169: another PC <- PC + 2 when the condition holds. -/
def State.skipIf (s : State) (c : Bool) : State := if c then s.advance else s

/-! ## Call stack (R37) -/

/-- stack[SP] <- w; SP <- SP + 1, where SP is not 16 (R163). -/
def State.push (s : State) (w : Word) (h : s.sp.val < 16) : State :=
  { s with stack := s.stack.set s.sp.val w, sp := ⟨s.sp.val + 1, by omega⟩ }

/-- SP <- SP - 1; PC <- stack[SP], where SP is not 0 (R161). The popped entry keeps its value (R37). -/
def State.pop (s : State) (h : 0 < s.sp.val) : State :=
  { s with pc := s.stack[s.sp.val - 1], sp := ⟨s.sp.val - 1, by omega⟩ }

/-! ## Framebuffer (R39, R40) -/

/-- The bit of a row that is column c. -/
def columnMask (c : Nat) : FbRow := 1#64 <<< (63 - c)

/-- pixel(c, r); false outside the frame. -/
def State.pixel (s : State) (c r : Nat) : Bool :=
  if h : r < 32 then decide (c < 64) && s.fb[r].getLsbD (63 - c) else false

/-- pixel(c, r) <- b; nothing outside the frame (R263). -/
def State.setPixel (s : State) (c r : Nat) (b : Bool) : State :=
  if h : r < 32 ∧ c < 64 then
    { s with fb := s.fb.set r (if b then s.fb[r] ||| columnMask c else s.fb[r] &&& ~~~ columnMask c) }
  else s

/-- Every pixel unlit (R260). -/
def State.clearScreen (s : State) : State := { s with fb := Vector.replicate 32 0 }

/-- The output framebufferChanged of this step is true (R140). -/
def State.reportChanged (s : State) : State := { s with out := { s.out with changed := true } }

/-! ## Faults (60_exceptions.md) -/

/-- The numeric code of a fault kind (R320). -/
def FaultKind.code : FaultKind → Nat
  | .illegalOpcode => 1
  | .stackOverflow => 2
  | .stackUnderflow => 3
  | .addressError => 4
  | .misalignedFetch => 5
  | .protectedWrite => 6
  | .keyIndexRange => 7

/-- The `code` of a record (R321). -/
def FaultRecord.code (r : FaultRecord) : Nat := r.kind.code

/-- The record of a fault of the instruction at PC (R321). -/
def State.faultRecord (s : State) (k : FaultKind) (opcode : Option Word) (addr : Option Nat) : FaultRecord where
  kind := k
  pc := s.pc
  opcode := opcode
  addr := addr

/-- Latch a fault: the state BEFORE the instruction keeps every field and only the latch is set; the step outputs the
record (R136, R325). The core is then halted for good: there is no handler, no vector and no return (R326). -/
def State.latch (s : State) (r : FaultRecord) : State :=
  { s with
    fault := some r
    out := { changed := false, beep := false, raised := some r } }

/-- `raise K(addr)` inside instruction `i` (R13, R321). Meanings are run on the state whose PC is pc0, so the record's pc
is PC and no PC increment has to be undone; the record's opcode is the word of `i`. -/
def State.raise (s : State) (i : Instr) (k : FaultKind) (addr : Option Nat) : State :=
  s.latch (s.faultRecord k (some (encode i)) addr)

/-- The core is halted (R137). -/
def State.halted (s : State) : Bool := s.fault.isSome

/-- A step of a halted core, its inputs landed: no field changes and the outputs are false, false, None (R137, R130). -/
def State.haltedStep (s : State) : State := { s with out := StepOutput.idle }

/-! ## Inputs of a step (R9) -/

/-- The host's inputs to the coming step: the next one lined up, else a free value. -/
def State.nextInput (s : State) : StepInput :=
  match s.inputs with
  | inp :: _ => inp
  | [] => Config.freeInput s.stepNo

/-- What lies between the last step and the coming one: the host has written the key bitmask (R44), `now` and `rnd` are
those of the coming step (R130), and its outputs start as false, false, None. -/
def State.receive (s : State) : State :=
  { s with
    keys := s.nextInput.keys
    now := s.nextInput.now
    rnd := s.nextInput.rnd
    inputs := s.inputs.tail
    stepNo := s.stepNo + 1
    out := StepOutput.idle }

end Sys2Proof.Machine
end

