-- ==== Sys2Proof/Machine/Flags.lean ====
section
/-!
DEFINITION. The flag computations, all of which go to VF as 0 or 1 (10_state.md R32): carry, no borrow and the bit
shifted out. The collision flag is computed where the sprite is drawn (Machine/Display.lean).
-/

namespace Sys2Proof.Machine

/-- A flag as the byte written to VF. -/
def flagByte (f : Bool) : Byte := if f then 1 else 0

/-- Carry of 8XY4: the sum on naturals exceeds 255 (R196). -/
def carryOf (a b : Byte) : Bool := decide (a.toNat + b.toNat > 255)

/-- No borrow of a - b: a >= b, equal operands included (R197, R199). -/
def noBorrow (a b : Byte) : Bool := decide (a.toNat ≥ b.toNat)

/-- The bit 8XY6 shifts out: bit 0 (R198). -/
def lowBit (a : Byte) : Byte := a &&& 1

/-- The bit 8XYE shifts out: (a & 0x80) >> 7 (R200). -/
def highBit (a : Byte) : Byte := (a &&& 0x80) >>> 7

/-- VF <- flag (R32). -/
def State.setFlag (s : State) (f : Bool) : State := s.setReg VF (flagByte f)

end Sys2Proof.Machine
end

