-- ==== Sys2Proof/Machine/ArithLogic.lean ====
section
/-!
DEFINITION. Register arithmetic and logic (42_arith_logic.md). Statements run in the order the rule writes them, which
decides what stands in VF when X = 0xF (R15, D11; notes/assumptions/12.md).
-/

namespace Sys2Proof.Machine

/-- 6XNN: VX <- nn (R190). -/
def execLdByte (x : Reg) (nn : Byte) (s : State) : Host.Outcome State Fault Refusal :=
  .next (s.setReg x nn).advance

/-- 7XNN: VX <- VX + nn modulo 256, no flag (R191). -/
def execAddByte (x : Reg) (nn : Byte) (s : State) : Host.Outcome State Fault Refusal :=
  .next (s.setReg x (s.reg x + nn)).advance

/-- 8XY0: VX <- VY (R192). -/
def execLdReg (x y : Reg) (s : State) : Host.Outcome State Fault Refusal :=
  .next (s.setReg x (s.reg y)).advance

/-- 8XY1: VX <- VX OR VY, VF untouched (R193). -/
def execOrReg (x y : Reg) (s : State) : Host.Outcome State Fault Refusal :=
  .next (s.setReg x (s.reg x ||| s.reg y)).advance

/-- 8XY2: VX <- VX AND VY, VF untouched (R194). -/
def execAndReg (x y : Reg) (s : State) : Host.Outcome State Fault Refusal :=
  .next (s.setReg x (s.reg x &&& s.reg y)).advance

/-- 8XY3: VX <- VX XOR VY, VF untouched (R195). -/
def execXorReg (x y : Reg) (s : State) : Host.Outcome State Fault Refusal :=
  .next (s.setReg x (s.reg x ^^^ s.reg y)).advance

/-- 8XY4: VX <- VX + VY modulo 256, then VF <- carry (R196). -/
def execAddReg (x y : Reg) (s : State) : Host.Outcome State Fault Refusal :=
  .next ((s.setReg x (s.reg x + s.reg y)).setFlag (carryOf (s.reg x) (s.reg y))).advance

/-- 8XY5: VX <- VX - VY modulo 256, then VF <- no borrow (R197). -/
def execSubReg (x y : Reg) (s : State) : Host.Outcome State Fault Refusal :=
  .next ((s.setReg x (s.reg x - s.reg y)).setFlag (noBorrow (s.reg x) (s.reg y))).advance

/-- VF <- bit, and then VX <- f VX, which reads VX after the flag write (R198, R200). -/
def flagThenShift (s : State) (x : Reg) (bit : Byte) (f : Byte → Byte) : State :=
  (s.setReg VF bit).setReg x (f ((s.setReg VF bit).reg x))

/-- 8XY6: VF <- bit 0 of VX, then VX <- VX >> 1; VY is not read (R198). -/
def execShr (x _y : Reg) (s : State) : Host.Outcome State Fault Refusal :=
  .next (flagThenShift s x (lowBit (s.reg x)) (fun b => b >>> 1)).advance

/-- 8XY7: VX <- VY - VX modulo 256, then VF <- no borrow (R199). -/
def execSubnReg (x y : Reg) (s : State) : Host.Outcome State Fault Refusal :=
  .next ((s.setReg x (s.reg y - s.reg x)).setFlag (noBorrow (s.reg y) (s.reg x))).advance

/-- 8XYE: VF <- bit 7 of VX, then VX <- VX << 1 modulo 256; VY is not read (R200). -/
def execShl (x _y : Reg) (s : State) : Host.Outcome State Fault Refusal :=
  .next (flagThenShift s x (highBit (s.reg x)) (fun b => b <<< 1)).advance

/-- CXNN: VX <- rnd AND nn, rnd the step's random byte (R201). -/
def execRnd (x : Reg) (nn : Byte) (s : State) : Host.Outcome State Fault Refusal :=
  .next (s.setReg x (s.rnd &&& nn)).advance

end Sys2Proof.Machine
end

