-- ==== Sys2Proof/Machine/Operands.lean ====
section
/-!
DEFINITION. The operand forms: immediates are zero-extended (R103), the one memory addressing mode is I plus a small
constant (R236), and the checks every memory access makes first (R78, R79).
-/

namespace Sys2Proof.Machine

/-- A 12-bit address operand as a 16-bit PC or I value (R103). -/
def addrWord (nnn : Addr) : Word := nnn.setWidth 16

/-- The first address of an access through I, an unbounded natural (R16, R236). -/
def State.iAddr (s : State) : Nat := s.i.toNat

/-- The lowest address of 0x1000 or above in the range of `count` addresses from `first`, if there is one (R78). -/
def rangeError (first count : Nat) : Option Nat :=
  if 0 < count ∧ memorySize < first + count then some (max first memorySize) else none

/-- What a load of `count` bytes from `first` raises, if anything (R78). -/
def loadCheck (first count : Nat) : Option (FaultKind × Nat) :=
  (rangeError first count).map fun a => (.addressError, a)

/-- What a store of `count` bytes from `first` raises, if anything: the range first, then the font (R233, R234, R79). -/
def storeCheck (c : Config) (first count : Nat) : Option (FaultKind × Nat) :=
  match rangeError first count with
  | some a => some (.addressError, a)
  | none => if c.fontWriteProtect && decide (first < fontEnd) then some (.protectedWrite, first) else none

/-- The key number in a register: a value above 0xF names no key (R290). -/
def keyIndex (b : Byte) : Option Nat := if b.toNat ≤ 0xF then some b.toNat else none

/-- Key k is held (R41). -/
def State.keyHeld (s : State) (k : Nat) : Bool := s.keys.getLsbD k

/-- The three decimal digits of a byte, hundreds first (R233). -/
def bcdDigits (b : Byte) : List Byte :=
  [BitVec.ofNat 8 (b.toNat / 100), BitVec.ofNat 8 (b.toNat / 10 % 10), BitVec.ofNat 8 (b.toNat % 10)]

/-- The target of BNNN: nnn + V0, unbounded, at most 0x10FE (R164). -/
def offsetTarget (nnn : Addr) (b : Byte) : Word := BitVec.ofNat 16 (nnn.toNat + b.toNat)

/-- The glyph address VX * 5 of FX29 (R232). -/
def glyphAddr (b : Byte) : Word := BitVec.ofNat 16 (b.toNat * 5)

end Sys2Proof.Machine
end

