-- ==== Sys2Proof/Machine/Control.lean ====
section
/-!
DEFINITION. Control transfer (41_control_flow.md): SYS, RET, JP, CALL, JP V0 and the register skips. A meaning is run on
the state whose PC is pc0, the instruction's own address; `advance` is the fetch increment of R133.
-/

namespace Sys2Proof.Machine

/-- 0NNN: no effect but the fetch increment (R160). -/
def execSys (_nnn : Addr) (s : State) : Host.Outcome State Fault Refusal :=
  .next s.advance

/-- 00EE: pop the return address; StackUnderflow when SP = 0 (R161). -/
def execRet (s : State) : Host.Outcome State Fault Refusal :=
  if h : 0 < s.sp.val then .next (s.pop h)
  else .next (s.raise .ret .stackUnderflow none)

/-- 1NNN: PC <- nnn (R162). -/
def execJp (nnn : Addr) (s : State) : Host.Outcome State Fault Refusal :=
  .next (s.jump (addrWord nnn))

/-- 2NNN: push pc0 + 2, PC <- nnn; StackOverflow when SP = 16 (R163). -/
def execCall (nnn : Addr) (s : State) : Host.Outcome State Fault Refusal :=
  if h : s.sp.val < 16 then .next ((s.push (s.pc + 2) h).jump (addrWord nnn))
  else .next (s.raise (.call nnn) .stackOverflow none)

/-- BNNN: PC <- nnn + V0, always V0 (R164). -/
def execJpV0 (nnn : Addr) (s : State) : Host.Outcome State Fault Refusal :=
  .next (s.jump (offsetTarget nnn (s.reg 0)))

/-- 3XNN: skip if VX = nn (R165). -/
def execSeByte (x : Reg) (nn : Byte) (s : State) : Host.Outcome State Fault Refusal :=
  .next (s.advance.skipIf (s.reg x == nn))

/-- 4XNN: skip if VX is not nn (R166). -/
def execSneByte (x : Reg) (nn : Byte) (s : State) : Host.Outcome State Fault Refusal :=
  .next (s.advance.skipIf (s.reg x != nn))

/-- 5XY0: skip if VX = VY (R167). -/
def execSeReg (x y : Reg) (s : State) : Host.Outcome State Fault Refusal :=
  .next (s.advance.skipIf (s.reg x == s.reg y))

/-- 9XY0: skip if VX is not VY (R168). -/
def execSneReg (x y : Reg) (s : State) : Host.Outcome State Fault Refusal :=
  .next (s.advance.skipIf (s.reg x != s.reg y))

end Sys2Proof.Machine
end

