-- ==== Sys2Proof/Machine/Display.lean ====
section
/-!
DEFINITION. The framebuffer clear and the sprite draw (44_display.md): the row-and-column loop of R261, run to
completion inside one instruction (R265).
-/

namespace Sys2Proof.Machine

/-- 00E0: every pixel unlit, changed reported (R260). -/
def execCls (s : State) : Host.Outcome State Fault Refusal :=
  .next s.clearScreen.reportChanged.advance

/-- The loop's state: the machine, whose framebuffer is being drawn, and `hit`. -/
structure DrawState where
  state : State
  hit : Bool
  deriving DecidableEq, Repr

/-- One sprite bit at screen position (px, py): toggle the pixel if the bit is 1, and note a lit one (R261). -/
def drawBit (bit : Bool) (px py : Nat) (d : DrawState) : DrawState :=
  if bit then
    { state := d.state.setPixel px py (!d.state.pixel px py)
      hit := d.hit || d.state.pixel px py }
  else d

/-- One sprite byte at row py: bit 7 - c at column (x0 + c) mod 64, for the columns c from 8 - k on (R261, R262). -/
def drawColumns (b : Byte) (x0 py : Nat) : Nat → DrawState → DrawState
  | 0, d => d
  | k + 1, d => drawColumns b x0 py k (drawBit (b.getLsbD k) ((x0 + (7 - k)) % 64) py d)

/-- The sprite rows, the one for memory[a] first, at rows y0, y0 + 1, ... mod 32 (R261, R263). -/
def drawRows (x0 : Nat) : Nat → Nat → Nat → DrawState → DrawState
  | 0, _, _, d => d
  | k + 1, a, y0, d => drawRows x0 k (a + 1) (y0 + 1) (drawColumns (d.state.readByte a) x0 (y0 % 32) 8 d)

/-- DXYN: XOR n sprite rows from memory[I..] at (VX mod 64, VY mod 32); VF <- hit, written last; changed (R261). -/
def execDrw (x y : Reg) (n : Nibble) (s : State) : Host.Outcome State Fault Refusal :=
  match loadCheck s.iAddr n.val with
  | some (k, a) => .next (s.raise (.drw x y n) k (some a))
  | none =>
    let d := drawRows ((s.reg x).toNat % 64) n.val s.iAddr ((s.reg y).toNat % 32) { state := s, hit := false }
    .next (d.state.setFlag d.hit).reportChanged.advance

end Sys2Proof.Machine
end

