-- ==== Sys2Proof/Machine/IndexMemory.lean ====
section
/-!
DEFINITION. The index register and memory transfer (43_index_memory.md). Every check stands before any write, and FX33,
FX55 and FX65 leave I unchanged (R236).
-/

namespace Sys2Proof.Machine

/-- ANNN: I <- nnn (R230). -/
def execLdI (nnn : Addr) (s : State) : Host.Outcome State Fault Refusal :=
  .next (s.setI (addrWord nnn)).advance

/-- FX1E: I <- I + VX, no flag; AddressError with the sum when it does not fit 16 bits (R231). -/
def execAddI (x : Reg) (s : State) : Host.Outcome State Fault Refusal :=
  if s.iAddr + (s.reg x).toNat > 0xFFFF then
    .next (s.raise (.addI x) .addressError (some (s.iAddr + (s.reg x).toNat)))
  else .next (s.setI (BitVec.ofNat 16 (s.iAddr + (s.reg x).toNat))).advance

/-- FX29: I <- VX * 5, unmasked (R232). -/
def execLdF (x : Reg) (s : State) : Host.Outcome State Fault Refusal :=
  .next (s.setI (glyphAddr (s.reg x))).advance

/-- FX33: the three decimal digits of VX to I, I+1, I+2 (R233). -/
def execLdB (x : Reg) (s : State) : Host.Outcome State Fault Refusal :=
  match storeCheck s.cfg s.iAddr 3 with
  | some (k, a) => .next (s.raise (.ldB x) k (some a))
  | none => .next (s.storeBytes s.iAddr (bcdDigits (s.reg x))).advance

/-- FX55: V0..VX to I..I+x (R234). -/
def execLdMemVx (x : Reg) (s : State) : Host.Outcome State Fault Refusal :=
  match storeCheck s.cfg s.iAddr (x.val + 1) with
  | some (k, a) => .next (s.raise (.ldMemVx x) k (some a))
  | none => .next (s.storeBytes s.iAddr (s.regsUpTo x)).advance

/-- FX65: I..I+x to V0..VX (R235). -/
def execLdVxMem (x : Reg) (s : State) : Host.Outcome State Fault Refusal :=
  match loadCheck s.iAddr (x.val + 1) with
  | some (k, a) => .next (s.raise (.ldVxMem x) k (some a))
  | none => .next (s.loadRegs s.iAddr (x.val + 1)).advance

end Sys2Proof.Machine
end

