-- ==== Sys2Proof/Machine/KeysTimers.lean ====
section
/-!
DEFINITION. Keypad and timer instructions (45_keys_timers.md) and the key-wait poll (R296).
-/

namespace Sys2Proof.Machine

/-- EX9E: skip if key VX is held; KeyIndexRange when VX > 0xF (R290). -/
def execSkp (x : Reg) (s : State) : Host.Outcome State Fault Refusal :=
  match keyIndex (s.reg x) with
  | some k => .next (s.advance.skipIf (s.keyHeld k))
  | none => .next (s.raise (.skp x) .keyIndexRange (some (s.reg x).toNat))

/-- EXA1: skip if key VX is not held; KeyIndexRange when VX > 0xF (R291). -/
def execSknp (x : Reg) (s : State) : Host.Outcome State Fault Refusal :=
  match keyIndex (s.reg x) with
  | some k => .next (s.advance.skipIf (!s.keyHeld k))
  | none => .next (s.raise (.sknp x) .keyIndexRange (some (s.reg x).toNat))

/-- FX07: VX <- DT, as it was before this step's ticks (R292). -/
def execLdVxDt (x : Reg) (s : State) : Host.Outcome State Fault Refusal :=
  .next (s.setReg x s.dt).advance

/-- FX0A: enter the key wait, remembering the keys held now; VX is written when the wait completes (R293). -/
def execLdVxK (x : Reg) (s : State) : Host.Outcome State Fault Refusal :=
  .next { s with wait := some { x := x, prev := s.keys } }.advance

/-- FX15: DT <- VX; the deadline is not reset (R294). -/
def execLdDtVx (x : Reg) (s : State) : Host.Outcome State Fault Refusal :=
  .next { s with dt := s.reg x }.advance

/-- FX18: ST <- VX; never a beep by itself (R295, R342). -/
def execLdStVx (x : Reg) (s : State) : Host.Outcome State Fault Refusal :=
  .next { s with st := s.reg x }.advance

/-- The keys down now that were up at the last observation (R297). -/
def keyEdges (keys prev : Word) : Word := keys &&& ~~~ prev

/-- The lowest index from `16 - k` on whose bit is 1. -/
def lowestFrom (w : Word) : Nat → Option Nat
  | 0 => none
  | k + 1 => if w.getLsbD (15 - k) then some (15 - k) else lowestFrom w k

/-- The lowest set bit of a 16-bit word, if it is not 0 (R296). -/
def lowestKey (w : Word) : Option Nat := lowestFrom w 16

/-- The key-wait poll of R296 for the wait `kw`, run in place of a cycle: PC does not change. -/
def State.pollKeys (s : State) (kw : KeyWait) : State :=
  match lowestKey (keyEdges s.keys kw.prev) with
  | some k => { s.setReg kw.x (BitVec.ofNat 8 k) with wait := none }
  | none => { s with wait := some { x := kw.x, prev := s.keys } }

end Sys2Proof.Machine
end

