-- ==== Sys2Proof/Machine/Fetch.lean ====
section
/-!
DEFINITION. The fetch of 40_pipeline.md R132 with its checks in order, and where a program's next word stands.
-/

namespace Sys2Proof.Machine

/-- The two bytes at address `a`, the lower one the high byte (R74). -/
def State.readWord (s : State) (a : Nat) : Word := wordOfBytes (s.readByte a) (s.readByte (a + 1))

/-- What a fetch at `pc` raises, if anything: the alignment first, then the range (R132). -/
def fetchCheck (c : Config) (pc : Word) : Option (FaultKind × Nat) :=
  if c.fetchAlignCheck && decide (pc.toNat % 2 = 1) then some (.misalignedFetch, pc.toNat)
  else if pc.toNat + 1 > 0xFFF then some (.addressError, max pc.toNat memorySize)
  else none

/-- fetch(s, pc0): the opcode at PC, or the fault record, which has no opcode (R132, R321). -/
def State.fetch (s : State) : Except FaultRecord Word :=
  match fetchCheck s.cfg s.pc with
  | some (k, a) => .error (s.faultRecord k none (some a))
  | none => .ok (s.readWord s.pc.toNat)

/-- The record of an illegal word at PC (R131, R322). -/
def State.illegalRecord (s : State) (op : Word) : FaultRecord :=
  s.faultRecord .illegalOpcode (some op) none

/-- PC where it can be fetched from, else the program base: where a word is put for the next fetch. -/
def State.fetchablePc (s : State) : Word :=
  if (fetchCheck s.cfg s.pc).isNone then s.pc else BitVec.ofNat 16 programBase

/-- The state with `w` as the word its next step fetches: not halted, not waiting for a key, PC fetchable. -/
def State.withNextWord (s : State) (w : Word) : State :=
  ({ s with wait := none, fault := none, pc := s.fetchablePc }).storeBytes s.fetchablePc.toNat (bytesOfWord w)

end Sys2Proof.Machine
end

