-- ==== Sys2Proof/Machine/Timer.lean ====
section
/-!
DEFINITION. The 60 Hz timer synchronizer (60_exceptions.md R340 to R344). It cannot fail (40_pipeline.md R138).
-/

namespace Sys2Proof.Machine

/-- What the synchronizer reads and writes. -/
structure Timers where
  dt : Byte
  st : Byte
  deadline : Nat
  beep : Bool
  deriving DecidableEq, Repr

/-- One less, never below 0 (R38). -/
def countDown (b : Byte) : Byte := if b = 0 then 0 else b - 1

/-- One tick: both timers count down, ST going from 1 to 0 beeps, the deadline moves by one period (R340, R342). -/
def Timers.tick (period : Nat) (t : Timers) : Timers where
  dt := countDown t.dt
  st := countDown t.st
  deadline := t.deadline + period
  beep := t.beep || decide (t.st = 1)

/-- The catch-up loop of R340: at most `room` more ticks. -/
def Timers.catchUp (period now : Nat) : Nat → Timers → Timers
  | 0, t => t
  | room + 1, t =>
    if t.deadline ≤ now then Timers.catchUp period now room (t.tick period) else t

/-- After the cap, a deadline that is still not in the future is set to now + TICK_PERIOD (R341). -/
def Timers.resync (period now : Nat) (t : Timers) : Timers :=
  if t.deadline ≤ now then { t with deadline := now + period } else t

/-- The timers after `timerSync(s, now)`. -/
def State.timersAt (s : State) (now : Nat) : Timers :=
  Timers.resync s.cfg.tickPeriod now
    (Timers.catchUp s.cfg.tickPeriod now s.cfg.maxCatchup
      { dt := s.dt, st := s.st, deadline := s.deadline, beep := false })

/-- timerSync(s, now) (R340). -/
def State.timerSync (s : State) (now : Nat) : State :=
  { s with
    dt := (s.timersAt now).dt
    st := (s.timersAt now).st
    deadline := (s.timersAt now).deadline
    out := { s.out with beep := (s.timersAt now).beep } }

/-- The end of a step: the synchronizer runs after the cycle or poll, but not after a cycle that faulted (R130, R328). -/
def State.finish (s : State) : State := if s.halted then s else s.timerSync s.now

end Sys2Proof.Machine
end

