-- ==== Sys2Proof/Machine/Cycle.lean ====
section
/-!
DEFINITION. The cycle of 40_pipeline.md R131, the choice between a cycle and a key-wait poll, and what ends a step.
-/

namespace Sys2Proof.Machine

/-- cycle(s, rnd): fetch, decode, execute one instruction; a fault of any of the three commits nothing (R131, R136). -/
def cycle (s : State) : Host.Outcome State Fault Refusal :=
  match s.fetch with
  | .error r => .next (s.latch r)
  | .ok op =>
    match decode op with
    | none => .next (s.latch (s.illegalRecord op))
    | some i => exec i s

/-- A cycle, or a key-wait poll while the core awaits a key (R130). -/
def cycleOrPoll (s : State) : Host.Outcome State Fault Refusal :=
  match s.wait with
  | some kw => .next (s.pollKeys kw)
  | none => cycle s

/-- The timer synchronizer after a cycle or poll (R130). -/
def finishStep : Host.Outcome State Fault Refusal → Host.Outcome State Fault Refusal
  | .next t => .next t.finish
  | .fault r => .fault r
  | .refused r => .refused r

end Sys2Proof.Machine
end

