-- ==== Sys2Proof/Machine/Step.lean ====
section
/-!
DEFINITION. The step of 40_pipeline.md R130.
-/

namespace Sys2Proof.Machine

/-- One step (R130): what the host passes and the keys it has written land (R44, also while halted, notes/assumptions/4.md);
then nothing while halted, else a cycle or poll and the synchronizer. -/
def step (s : State) : Host.Outcome State Fault Refusal :=
  if s.halted then .next s.receive.haltedStep else finishStep (cycleOrPoll s.receive)

/-- `s` with the instruction of a table word stored where the next step fetches it (notes/assumptions/9.md). -/
def State.withFetchWord (s : State) (nbits w : Nat) : State := s.withNextWord (tableWord nbits w)

end Sys2Proof.Machine
end

