-- ==== Sys2Proof/Machine/Boot.lean ====
section
/-!
DEFINITION. The ROM-load interface and reset as one operation (70_reset_and_hazards.md R370 to R372). It is not part of a
step: the core has no operation that loads a ROM into a running state (D30).
-/

namespace Sys2Proof.Machine

/-- Why the loader refuses a ROM, before any step runs (R372). -/
inductive LoadError where
  /-- Size 0, or more than 3584 bytes. -/
  | malformedRom
  deriving DecidableEq, Repr

/-- The code the spec gives MalformedROM, for reporting only (R320). -/
def LoadError.code : LoadError → Nat
  | .malformedRom => 8

/-- The largest ROM: 4096 - 0x200 bytes (R7, R372). -/
abbrev maxRomSize : Nat := 3584

/-- Copy ROM bytes to memory[0x200..] (R370, R372). -/
def State.loadRom (s : State) (rom : List Byte) : Except LoadError State :=
  if rom.length = 0 ∨ rom.length > maxRomSize then .error .malformedRom
  else .ok (s.storeBytes programBase rom)

/-- reset(rom, now0) with parameters `c` (R370). -/
def boot (c : Config) (rom : List Byte) (now0 : Nat) : Except LoadError State :=
  (State.resetAt c now0).loadRom rom

end Sys2Proof.Machine
end

