-- ==== Sys2Proof/Safety.lean ====
section
/-!
DEFINITION. The terms in which claims are stated: what an instruction may change (its frame), which instruction a step
runs, what a halted core is, and the invariant of the machine.
-/

namespace Sys2Proof.Machine

/-! ## Frames -/

/-- What an instruction may write besides PC. A field left out is not written. -/
structure Effects where
  regs : List Reg := []
  i : Bool := false
  stack : Bool := false
  dt : Bool := false
  st : Bool := false
  fb : Bool := false
  wait : Bool := false
  changed : Bool := false
  /-- The stored bytes: first address and count. -/
  mem : Option (Nat × Nat) := none
  deriving DecidableEq, Repr

/-- Address `a` is one of the stored bytes. -/
def Effects.stores (e : Effects) (a : Nat) : Prop :=
  match e.mem with
  | some (first, count) => first ≤ a ∧ a < first + count
  | none => False

/-- `t` is `s` but for PC and what `e` names: every register, every byte of memory, every other field. -/
structure Keeps (e : Effects) (s t : State) : Prop where
  regs : ∀ r, r ∉ e.regs → t.reg r = s.reg r
  mem : ∀ a, ¬ e.stores a → t.readByte a = s.readByte a
  i : e.i = false → t.i = s.i
  stack : e.stack = false → t.stack = s.stack ∧ t.sp = s.sp
  dt : e.dt = false → t.dt = s.dt
  st : e.st = false → t.st = s.st
  fb : e.fb = false → t.fb = s.fb
  wait : e.wait = false → t.wait = s.wait
  out : t.out = if e.changed then { s.out with changed := true } else s.out
  fault : t.fault = s.fault
  keys : t.keys = s.keys
  deadline : t.deadline = s.deadline
  cfg : t.cfg = s.cfg
  inputs : t.now = s.now ∧ t.rnd = s.rnd ∧ t.inputs = s.inputs ∧ t.stepNo = s.stepNo

/-- What each instruction writes when it commits: the tables of R33, R51 and R77, with R37, R38, R48 and R266. -/
def effectsOf (s : State) : Instr → Effects
  | .cls => { fb := true, changed := true }
  | .ret | .call _ => { stack := true }
  | .sys _ | .jp _ | .jpV0 _ => {}
  | .seByte _ _ | .sneByte _ _ | .seReg _ _ | .sneReg _ _ | .skp _ | .sknp _ => {}
  | .ldByte x _ | .addByte x _ | .rnd x _ | .ldVxDt x => { regs := [x] }
  | .ldReg x _ | .orReg x _ | .andReg x _ | .xorReg x _ => { regs := [x] }
  | .addReg x _ | .subReg x _ | .shr x _ | .subnReg x _ | .shl x _ => { regs := [x, VF] }
  | .ldI _ | .addI _ | .ldF _ => { i := true }
  | .drw _ _ _ => { regs := [VF], fb := true, changed := true }
  | .ldVxK _ => { wait := true }
  | .ldDtVx _ => { dt := true }
  | .ldStVx _ => { st := true }
  | .ldB _ => { mem := some (s.iAddr, 3) }
  | .ldMemVx x => { mem := some (s.iAddr, x.val + 1) }
  | .ldVxMem x => { regs := (List.finRange 16).filter (· ≤ x) }

/-! ## Steps -/

/-- A fetch at PC is free of faults (R132). -/
def Fetchable (s : State) : Prop :=
  (s.cfg.fetchAlignCheck = true → s.pc.toNat % 2 = 0) ∧ s.pc.toNat + 1 ≤ 0xFFF

/-- The opcode at PC: memory[PC] in the high byte, memory[PC+1] in the low byte (R74). -/
def opcodeAtPc (s : State) : Word :=
  BitVec.ofNat 16 ((s.readByte s.pc.toNat).toNat * 256 + (s.readByte (s.pc.toNat + 1)).toNat)

/-- The input that the k-th coming step takes, counted from 0: the k-th of those lined up, else a free value
(notes/assumptions/4.md). -/
def State.inputAt (s : State) (k : Nat) : StepInput := s.inputs[k]?.getD (Config.freeInput (s.stepNo + k))

/-- The next step of `s` is a cycle that executes `i`. -/
def Runs (s : State) (i : Instr) : Prop :=
  s.fault = none ∧ s.wait = none ∧ Fetchable s ∧ decode (opcodeAtPc s) = some i

/-- The opcode `w` is a word of instruction `i`. -/
def IsWordOf (w : Nat) (i : Instr) : Prop := decode (BitVec.ofNat 16 w) = some i

/-- The two states agree on every field of 10_state.md R30 but the fault latch, and on the parameters. -/
def SameButFault (s t : State) : Prop :=
  t.mem = s.mem ∧ t.v = s.v ∧ t.i = s.i ∧ t.pc = s.pc ∧ t.stack = s.stack ∧ t.sp = s.sp ∧ t.dt = s.dt ∧
    t.st = s.st ∧ t.fb = s.fb ∧ t.keys = s.keys ∧ t.deadline = s.deadline ∧ t.wait = s.wait ∧ t.cfg = s.cfg

/-! ## The invariant (10_state.md R53) -/

/-- The canonical form of a state's memory. -/
abbrev State.memWf (s : State) : Prop := Memory.wf (resetByte s.cfg) s.mem = true

/-- The font reads as FONT (R53, R79). -/
def FontIntact (s : State) : Prop := ∀ a, a < fontEnd → s.readByte a = resetByte s.cfg a

/-- What every reachable state keeps: R53, R8's limits, and the canonical form of memory. -/
structure Inv (s : State) : Prop where
  params : s.cfg.wf = true
  mem : s.memWf
  font : s.cfg.fontWriteProtect = true → FontIntact s
  wait : s.wait ≠ none → s.fault = none

/-- PC and every stack entry stay in the ranges of R36 and R134. -/
def PcInRange (s : State) : Prop :=
  s.pc.toNat ≤ 0x10FE ∧ ∀ k : Fin 16, (s.stack[k]).toNat ≤ 0x1000

/-- A safe state: the core is not halted by a fault. -/
def Running (s : State) : Prop := s.fault = none

/-! ## Sprites (R261 to R263) -/

/-- The sprite's bit for screen pixel (c, r), for a sprite of `n` rows at `a` with its corner at (x0, y0), each taken
modulo the frame: the byte of the row the pixel falls in, bit 7 leftmost, and false outside the sprite. -/
def spriteBit (s : State) (a n x0 y0 c r : Nat) : Bool :=
  let dr := (r + 32 - y0) % 32
  let dc := (c + 64 - x0) % 64
  decide (dr < n) && decide (dc < 8) && (s.readByte (a + dr)).getLsbD (7 - dc)

/-! ## Ticks (R340, R341) -/

/-- How many decrements a synchronizer run at `now` makes: the boundaries deadline, deadline + P, ... that are not
after `now`, at most MAX_CATCHUP_TICKS of them. -/
def ticksDue (c : Config) (deadline now : Nat) : Nat :=
  if now < deadline then 0 else min ((now - deadline) / c.tickPeriod + 1) c.maxCatchup

/-- `n` runs of the synchronizer, each at the time of the deadline it finds: a clock that advances tick by tick (R343). -/
def tickByTick : Nat → State → State
  | 0, s => s
  | n + 1, s => tickByTick n (s.timerSync s.deadline)

/-- Key `k` went down: it is held now and was not at the last observation (R297). -/
def WentDown (now prev : Word) (k : Nat) : Prop := now.getLsbD k = true ∧ prev.getLsbD k = false

end Sys2Proof.Machine
end

