-- ==== Sys2Proof/Certificates/Slice0/Obligations.lean ====
section
/-!
DEFINITION. The statements for the provers, each from the rules of spec/ its docstring names. "The spec's own decision"
marks a clause that spec/92_eei_decisions.md chooses; "the model's choice" one that notes/assumptions/ logs.
-/

open Sys2Proof Sys2Proof.Machine

/-! ## Encoding and decode -/

/-- Words written out from the layouts of R102, of every shape, decode to the instructions they stand for, and three
illegal words to none. That 0x5121 is illegal is the spec's own decision D10. -/
def Obligations.DecodesWordsWrittenFromTheSpec : Prop :=
  decode 0x00E0#16 = some .cls ∧ decode 0x00EE#16 = some .ret ∧ decode 0x0123#16 = some (.sys 0x123#12) ∧
  decode 0x2210#16 = some (.call 0x210#12) ∧ decode 0x3310#16 = some (.seByte 3 0x10#8) ∧
  decode 0x5120#16 = some (.seReg 1 2) ∧ decode 0x5121#16 = none ∧ decode 0x8344#16 = some (.addReg 3 4) ∧
  decode 0x8F0E#16 = some (.shl 15 0) ∧ decode 0x8128#16 = none ∧ decode 0xA300#16 = some (.ldI 0x300#12) ∧
  decode 0xD125#16 = some (.drw 1 2 5) ∧ decode 0xE59E#16 = some (.skp 5) ∧ decode 0xF233#16 = some (.ldB 2) ∧
  decode 0xF0FF#16 = none

/-- Decoding the bytes of an encoded well-formed instruction gives it back and leaves the rest (R102, R104, R105). -/
def Obligations.DecodeInvertsEncode : Prop :=
  ∀ (i : Instr) (rest : List Byte), i.wf = true →
    decode (encode i) = some i ∧ decodeBytes (bytesOfWord (encode i) ++ rest) = .ok (i, rest)

/-- Every word the decoder accepts is the word of a well-formed instruction: no bit of it is dropped (R102, R104). -/
def Obligations.EncodeInvertsDecode : Prop :=
  ∀ (op : Word) (i : Instr), decode op = some i → i.wf = true ∧ encode i = op

/-- The decoder rejects exactly the words of the table of R107. That 5XYn and 9XYn with n other than 0 are among them
is the spec's own decision D10. -/
def Obligations.IllegalWordsAreExactlyThese : Prop :=
  ∀ op : Word, decode op = none ↔
    (op.toNat / 4096 = 0x5 ∧ op.toNat % 16 ≠ 0) ∨
    (op.toNat / 4096 = 0x8 ∧ op.toNat % 16 ∈ [0x8, 0x9, 0xA, 0xB, 0xC, 0xD, 0xF]) ∨
    (op.toNat / 4096 = 0x9 ∧ op.toNat % 16 ≠ 0) ∨
    (op.toNat / 4096 = 0xE ∧ op.toNat % 256 ∉ [0x9E, 0xA1]) ∨
    (op.toNat / 4096 = 0xF ∧ op.toNat % 256 ∉ [0x07, 0x0A, 0x15, 0x18, 0x1E, 0x29, 0x33, 0x55, 0x65])

/-- Class 0: 00E0 and 00EE first, every other word is SYS (R105's first sentence). -/
def Obligations.ClassZeroWordsDecodeInPriority : Prop :=
  ∀ op : Word, op.toNat < 0x1000 →
    (op.toNat = 0x0E0 → decode op = some .cls) ∧
    (op.toNat = 0x0EE → decode op = some .ret) ∧
    (op.toNat ≠ 0x0E0 → op.toNat ≠ 0x0EE → ∃ nnn : Addr, nnn.toNat = op.toNat ∧ decode op = some (.sys nnn))

/-! ## The step, fetch and faults -/

/-- When the word at PC decodes to `i`, a step is `exec i` on the state the host's inputs have landed in, and then the
end of the step (R130, R131). That inputs land at the start of a step is the model's choice
(notes/assumptions/4.md). -/
def Obligations.StepRunsTheDecodedInstruction : Prop :=
  ∀ (s : State) (i : Instr), Runs s i → step s = finishStep (exec i s.receive)

/-- A step whose cycle or poll did not fault ends with the synchronizer at the step's `now`; one that faulted does not
run it (R130, R328; the spec's own decision D14). That inputs land at the start of a step is the model's choice
(notes/assumptions/4.md). -/
def Obligations.SynchronizerEndsEveryUnfaultedStep : Prop :=
  ∀ s u : State, s.fault = none → cycleOrPoll s.receive = .next u →
    (u.fault = none → step s = .next (u.timerSync s.nextInput.now)) ∧
    (u.fault ≠ none → step s = .next u)

/-- `withFetchWord` puts a table word where the very next step runs it (the model's choice, notes/assumptions/9.md),
on the state in which that step's inputs have landed (notes/assumptions/4.md). -/
def Obligations.PlacedWordIsRunNext : Prop :=
  ∀ (s : State) (w : Nat) (i : Instr), s.memWf → decodeTableWord 16 w = some i →
    step (s.withFetchWord 16 w) = finishStep (exec i (s.withFetchWord 16 w).receive)

/-- The byte at the lower address is the high byte of the fetched opcode, whatever the parameters (R73). -/
def Obligations.FetchedOpcodeIsBigEndian : Prop :=
  ∀ s : State, (s.cfg.fetchAlignCheck = true → s.pc.toNat % 2 = 0) → s.pc.toNat + 1 ≤ 0xFFF →
    ∃ op, s.fetch = .ok op ∧
      op.toNat = (s.readByte s.pc.toNat).toNat * 256 + (s.readByte (s.pc.toNat + 1)).toNat

/-- The two fetch faults, the alignment first, with no opcode in the record (R132, R321; the spec's own decisions D6,
D24). Beside the latch only the step's inputs have landed, the keys among them (the model's choice,
notes/assumptions/4.md). -/
def Obligations.FetchFaultsInOrder : Prop :=
  ∀ s : State, s.fault = none → s.wait = none →
    (s.cfg.fetchAlignCheck = true ∧ s.pc.toNat % 2 = 1 →
      step s = .next (s.receive.latch
        { kind := .misalignedFetch, pc := s.pc, opcode := none, addr := some s.pc.toNat })) ∧
    (¬ (s.cfg.fetchAlignCheck = true ∧ s.pc.toNat % 2 = 1) → s.pc.toNat > 0xFFE →
      step s = .next (s.receive.latch
        { kind := .addressError, pc := s.pc, opcode := none, addr := some (max s.pc.toNat 0x1000) }))

/-- An illegal word at PC halts the core with IllegalOpcode(op, pc0) (R107, R131, R322). Beside the latch only the
step's inputs have landed, the keys among them (the model's choice, notes/assumptions/4.md). -/
def Obligations.IllegalWordHaltsTheCore : Prop :=
  ∀ s : State, s.fault = none → s.wait = none → Fetchable s → decode (opcodeAtPc s) = none →
    step s = .next (s.receive.latch
      { kind := .illegalOpcode, pc := s.pc, opcode := some (opcodeAtPc s), addr := none })

/-- An instruction that faults commits none of its writes, the PC increment included: the state is the one before it
with the latch set, and the record has its address and word (R136, R321, R325). -/
def Obligations.RaisingInstructionCommitsNothing : Prop :=
  ∀ (i : Instr) (s t : State), s.fault = none → exec i s = .next t → t.fault ≠ none →
    ∃ k a, t = s.latch { kind := k, pc := s.pc, opcode := some (encode i), addr := a }

/-- A step that faults changes no field but the latch, does not run the synchronizer, reports the record, and was a
cycle (R136, R138, R140, R325, R328); the record's code is that of its kind (R320, R321; the codes are the spec's own
decision D9). The host's key write lands before it (the model's choice, notes/assumptions/4.md). -/
def Obligations.FaultingStepChangesOnlyTheLatch : Prop :=
  ∀ (s t : State) (r : FaultRecord), s.fault = none → step s = .next t → t.fault = some r →
    SameButFault s.receive t ∧ s.wait = none ∧ r.pc = s.pc ∧
      (r.kind, r.code) ∈ [(.illegalOpcode, 1), (.stackOverflow, 2), (.stackUnderflow, 3), (.addressError, 4),
        (.misalignedFetch, 5), (.protectedWrite, 6), (.keyIndexRange, 7)] ∧
      t.out = { changed := false, beep := false, raised := some r }

/-- No step of a halted core changes a field, however many, and its outputs are false, false, None (R137, R326; the
spec's own decision D8): after k + 1 steps the core is as it was, but for the keys the host has written between them
(R44) and the model's own fields. That keys land at the start of a step is the model's choice
(notes/assumptions/4.md). -/
def Obligations.HaltedCoreNeverChanges : Prop :=
  ∀ (s : State) (k : Nat), s.fault ≠ none →
    Host.Core.run Sys2Proof.core (k + 1) s = .next { s with
      keys := (s.inputAt k).keys
      now := (s.inputAt k).now
      rnd := (s.inputAt k).rnd
      inputs := s.inputs.drop (k + 1)
      stepNo := s.stepNo + (k + 1)
      out := { changed := false, beep := false, raised := none } }

/-- Every step of every state answers a next state: the core has no other way to stop (R130, R325, R326; the model's
choice in notes/assumptions/6.md). -/
def Obligations.EveryStepAnswersANextState : Prop :=
  ∀ s : State, ∃ t, step s = .next t

/-- The frame of all 35 instructions: one that commits writes only what the tables of R33, R51 and R77 name for it,
and every register, every byte of memory and every other field is as before. -/
def Obligations.InstructionsChangeOnlyTheirEffects : Prop :=
  ∀ (i : Instr) (s t : State), s.fault = none → exec i s = .next t → t.fault = none → Keeps (effectsOf s i) s t

/-- The parameters never change, and a step, also of a halted core, leaves the key bitmask as the host wrote it (R8,
R41, R44). That the write lands at the start of the step is the model's choice (notes/assumptions/4.md). -/
def Obligations.StepNeverWritesKeysOrParameters : Prop :=
  ∀ s t : State, step s = .next t → t.cfg = s.cfg ∧ t.keys = s.nextInput.keys

/-! ## Control transfer -/

/-- SYS, every word of class 0 but 00E0 and 00EE, does nothing but the fetch increment (R160). -/
def Obligations.SysOnlyAdvances : Prop :=
  (∀ nnn : Addr, nnn ≠ 0x0E0 → nnn ≠ 0x0EE → IsWordOf nnn.toNat (.sys nnn)) ∧
  ∀ (nnn : Addr) (s : State), ∃ t, exec (.sys nnn) s = .next t ∧ t.pc = s.pc + 2 ∧ Keeps {} s t

/-- JP, the words 1nnn, sets PC to nnn (R162). -/
def Obligations.JumpSetsPc : Prop :=
  ∀ (nnn : Addr) (s : State), IsWordOf (0x1000 + nnn.toNat) (.jp nnn) ∧
    ∃ t, exec (.jp nnn) s = .next t ∧ t.pc.toNat = nnn.toNat ∧ Keeps {} s t

/-- JP V0, the words Bnnn, sets PC to nnn + V0, an unbounded sum that is never reduced (R164). -/
def Obligations.JumpV0AddsV0 : Prop :=
  ∀ (nnn : Addr) (s : State), IsWordOf (0xB000 + nnn.toNat) (.jpV0 nnn) ∧
    ∃ t, exec (.jpV0 nnn) s = .next t ∧
    t.pc.toNat = nnn.toNat + (s.reg 0).toNat ∧ Keeps {} s t

/-- CALL, the words 2nnn, pushes pc0 + 2 and jumps; with SP = 16 it raises StackOverflow and changes nothing (R163;
the pushed value is the spec's own derivation). -/
def Obligations.CallPushesTheReturnAddress : Prop :=
  ∀ (nnn : Addr) (s : State), IsWordOf (0x2000 + nnn.toNat) (.call nnn) ∧
    (s.sp.val < 16 → ∃ t, exec (.call nnn) s = .next t ∧ t.stack[s.sp.val]? = some (s.pc + 2) ∧
      (∀ k : Fin 16, k.val ≠ s.sp.val → t.stack[k] = s.stack[k]) ∧ t.sp.val = s.sp.val + 1 ∧
      t.pc.toNat = nnn.toNat ∧ Keeps { stack := true } s t) ∧
    (s.sp.val = 16 → exec (.call nnn) s = .next (s.latch
      { kind := .stackOverflow, pc := s.pc, opcode := some (encode (.call nnn)), addr := none }))

/-- RET, the word 00EE, pops the return address into PC and leaves the entry; with SP = 0 it raises StackUnderflow
(R161). -/
def Obligations.ReturnPopsTheStack : Prop :=
  IsWordOf 0x00EE .ret ∧ ∀ s : State,
    (0 < s.sp.val → ∃ t, exec .ret s = .next t ∧ s.stack[s.sp.val - 1]? = some t.pc ∧
      t.sp.val + 1 = s.sp.val ∧ t.stack = s.stack ∧ Keeps { stack := true } s t) ∧
    (s.sp.val = 0 → exec .ret s = .next (s.latch
      { kind := .stackUnderflow, pc := s.pc, opcode := some 0x00EE#16, addr := none }))

/-- SE and SNE with a byte, the words 3xnn and 4xnn: PC + 4 when the condition holds, else PC + 2 (R165, R166). -/
def Obligations.ByteSkipsCompareVxWithNn : Prop :=
  ∀ (x : Reg) (nn : Byte) (s : State),
    IsWordOf (0x3000 + x.val * 0x100 + nn.toNat) (.seByte x nn) ∧
    IsWordOf (0x4000 + x.val * 0x100 + nn.toNat) (.sneByte x nn) ∧
    (∃ t, exec (.seByte x nn) s = .next t ∧ t.pc = (if s.reg x = nn then s.pc + 4 else s.pc + 2) ∧ Keeps {} s t) ∧
    (∃ t, exec (.sneByte x nn) s = .next t ∧ t.pc = (if s.reg x = nn then s.pc + 2 else s.pc + 4) ∧ Keeps {} s t)

/-- SE and SNE with a register, the words 5xy0 and 9xy0; with x = y SE always skips and SNE never does (R167,
R168). -/
def Obligations.RegisterSkipsCompareVxWithVy : Prop :=
  ∀ (x y : Reg) (s : State),
    IsWordOf (0x5000 + x.val * 0x100 + y.val * 0x10) (.seReg x y) ∧
    IsWordOf (0x9000 + x.val * 0x100 + y.val * 0x10) (.sneReg x y) ∧
    (∃ t, exec (.seReg x y) s = .next t ∧ t.pc = (if s.reg x = s.reg y then s.pc + 4 else s.pc + 2) ∧
      Keeps {} s t) ∧
    (∃ t, exec (.sneReg x y) s = .next t ∧ t.pc = (if s.reg x = s.reg y then s.pc + 2 else s.pc + 4) ∧
      Keeps {} s t)

/-! ## Arithmetic and logic -/

/-- LD Vx, byte and LD Vx, Vy, the words 6xnn and 8xy0 (R190, R192). -/
def Obligations.LoadsWriteVx : Prop :=
  ∀ (x y : Reg) (nn : Byte) (s : State),
    IsWordOf (0x6000 + x.val * 0x100 + nn.toNat) (.ldByte x nn) ∧
    IsWordOf (0x8000 + x.val * 0x100 + y.val * 0x10) (.ldReg x y) ∧
    (∃ t, exec (.ldByte x nn) s = .next t ∧ t.reg x = nn ∧ t.pc = s.pc + 2 ∧ Keeps { regs := [x] } s t) ∧
    (∃ t, exec (.ldReg x y) s = .next t ∧ t.reg x = s.reg y ∧ t.pc = s.pc + 2 ∧ Keeps { regs := [x] } s t)

/-- ADD Vx, byte, the words 7xnn, wraps modulo 256 and writes no flag, x = 0xF included (R191). -/
def Obligations.AddByteWrapsWithoutFlag : Prop :=
  ∀ (x : Reg) (nn : Byte) (s : State), IsWordOf (0x7000 + x.val * 0x100 + nn.toNat) (.addByte x nn) ∧
    ∃ t, exec (.addByte x nn) s = .next t ∧
    (t.reg x).toNat = ((s.reg x).toNat + nn.toNat) % 256 ∧ t.pc = s.pc + 2 ∧ Keeps { regs := [x] } s t

/-- OR, AND and XOR, the words 8xy1, 8xy2 and 8xy3, work bit by bit and leave VF alone unless x = 0xF (R193, R194,
R195). -/
def Obligations.LogicWorksBitwise : Prop :=
  ∀ (x y : Reg) (s : State),
    IsWordOf (0x8001 + x.val * 0x100 + y.val * 0x10) (.orReg x y) ∧
    IsWordOf (0x8002 + x.val * 0x100 + y.val * 0x10) (.andReg x y) ∧
    IsWordOf (0x8003 + x.val * 0x100 + y.val * 0x10) (.xorReg x y) ∧
    (∃ t, exec (.orReg x y) s = .next t ∧
      (∀ k, k < 8 → (t.reg x).getLsbD k = ((s.reg x).getLsbD k || (s.reg y).getLsbD k)) ∧
      t.pc = s.pc + 2 ∧ Keeps { regs := [x] } s t) ∧
    (∃ t, exec (.andReg x y) s = .next t ∧
      (∀ k, k < 8 → (t.reg x).getLsbD k = ((s.reg x).getLsbD k && (s.reg y).getLsbD k)) ∧
      t.pc = s.pc + 2 ∧ Keeps { regs := [x] } s t) ∧
    (∃ t, exec (.xorReg x y) s = .next t ∧
      (∀ k, k < 8 → (t.reg x).getLsbD k = ((s.reg x).getLsbD k ^^ (s.reg y).getLsbD k)) ∧
      t.pc = s.pc + 2 ∧ Keeps { regs := [x] } s t)

/-- ADD Vx, Vy, the words 8xy4: the sum modulo 256 in VX and then the carry in VF, which is what VF holds when x = 0xF
(R196; the order is the spec's own decision D11). -/
def Obligations.AddRegWritesSumThenCarry : Prop :=
  ∀ (x y : Reg) (s : State), IsWordOf (0x8004 + x.val * 0x100 + y.val * 0x10) (.addReg x y) ∧
    ∃ t, exec (.addReg x y) s = .next t ∧
    (x ≠ VF → (t.reg x).toNat = ((s.reg x).toNat + (s.reg y).toNat) % 256) ∧
    (t.reg VF).toNat = (if (s.reg x).toNat + (s.reg y).toNat > 255 then 1 else 0) ∧
    t.pc = s.pc + 2 ∧ Keeps { regs := [x, VF] } s t

/-- SUB and SUBN, the words 8xy5 and 8xy7: the difference modulo 256 in VX and then NOT borrow in VF (R197, R199; the
order is the spec's own decision D11, equal operands as no borrow its derivation). -/
def Obligations.SubtractionsWriteDifferenceThenNoBorrow : Prop :=
  ∀ (x y : Reg) (s : State),
    IsWordOf (0x8005 + x.val * 0x100 + y.val * 0x10) (.subReg x y) ∧
    IsWordOf (0x8007 + x.val * 0x100 + y.val * 0x10) (.subnReg x y) ∧
    (∃ t, exec (.subReg x y) s = .next t ∧
      (x ≠ VF → (t.reg x).toNat = ((s.reg x).toNat + 256 - (s.reg y).toNat) % 256) ∧
      (t.reg VF).toNat = (if (s.reg x).toNat ≥ (s.reg y).toNat then 1 else 0) ∧
      t.pc = s.pc + 2 ∧ Keeps { regs := [x, VF] } s t) ∧
    (∃ t, exec (.subnReg x y) s = .next t ∧
      (x ≠ VF → (t.reg x).toNat = ((s.reg y).toNat + 256 - (s.reg x).toNat) % 256) ∧
      (t.reg VF).toNat = (if (s.reg y).toNat ≥ (s.reg x).toNat then 1 else 0) ∧
      t.pc = s.pc + 2 ∧ Keeps { regs := [x, VF] } s t)

/-- SHR and SHL, the words 8xy6 and 8xyE: the bit shifted out in VF and then VX shifted by one; VY is not read. With x
= 0xF the shift reads the new VF: SHR leaves 0, SHL twice the old bit 7 (R198, R200; the order is the spec's own
decision D11). -/
def Obligations.ShiftsWriteFlagThenVx : Prop :=
  ∀ (x y : Reg) (s : State),
    IsWordOf (0x8006 + x.val * 0x100 + y.val * 0x10) (.shr x y) ∧
    IsWordOf (0x800E + x.val * 0x100 + y.val * 0x10) (.shl x y) ∧
    (∃ t, exec (.shr x y) s = .next t ∧
      (x ≠ VF → (t.reg x).toNat = (s.reg x).toNat / 2 ∧ (t.reg VF).toNat = (s.reg x).toNat % 2) ∧
      (x = VF → (t.reg VF).toNat = 0) ∧
      t.pc = s.pc + 2 ∧ Keeps { regs := [x, VF] } s t) ∧
    (∃ t, exec (.shl x y) s = .next t ∧
      (x ≠ VF → (t.reg x).toNat = (s.reg x).toNat * 2 % 256 ∧ (t.reg VF).toNat = (s.reg x).toNat / 128) ∧
      (x = VF → (t.reg VF).toNat = (s.reg x).toNat / 128 * 2) ∧
      t.pc = s.pc + 2 ∧ Keeps { regs := [x, VF] } s t)

/-- RND, the words Cxnn: VX is the step's random byte AND nn, bit by bit (R201; the draw is the spec's own decision
D34). -/
def Obligations.RandomIsMaskedByNn : Prop :=
  ∀ (x : Reg) (nn : Byte) (s : State), IsWordOf (0xC000 + x.val * 0x100 + nn.toNat) (.rnd x nn) ∧
    ∃ t, exec (.rnd x nn) s = .next t ∧
    (∀ k, k < 8 → (t.reg x).getLsbD k = (s.rnd.getLsbD k && nn.getLsbD k)) ∧
    t.pc = s.pc + 2 ∧ Keeps { regs := [x] } s t

/-- A step that runs RND uses the `rnd` the host passes to that step and uses the input up (R141; that inputs are
lined up in the state is the model's choice, notes/assumptions/4.md). -/
def Obligations.RandomByteIsTheStepsInput : Prop :=
  ∀ (s : State) (x : Reg) (nn : Byte) (inp : StepInput) (rest : List StepInput),
    Runs s (.rnd x nn) → s.inputs = inp :: rest →
    ∃ t, step s = .next t ∧ t.reg x = inp.rnd &&& nn ∧ (∀ r, r ≠ x → t.reg r = s.reg r) ∧
      t.pc = s.pc + 2 ∧ t.keys = inp.keys ∧ t.inputs = rest ∧ t.stepNo = s.stepNo + 1

/-! ## Index register and memory -/

/-- LD I, addr, the words Annn (R230). -/
def Obligations.LoadIndexSetsI : Prop :=
  ∀ (nnn : Addr) (s : State), IsWordOf (0xA000 + nnn.toNat) (.ldI nnn) ∧
    ∃ t, exec (.ldI nnn) s = .next t ∧ t.i.toNat = nnn.toNat ∧
    t.pc = s.pc + 2 ∧ Keeps { i := true } s t

/-- ADD I, Vx, the words Fx1E: the unbounded sum, no flag; a sum above 0xFFFF raises AddressError(sum) (R231; the
spec's own decision D16). -/
def Obligations.AddIndexChecksSixteenBits : Prop :=
  ∀ (x : Reg) (s : State), IsWordOf (0xF01E + x.val * 0x100) (.addI x) ∧
    (s.i.toNat + (s.reg x).toNat ≤ 0xFFFF → ∃ t, exec (.addI x) s = .next t ∧
      t.i.toNat = s.i.toNat + (s.reg x).toNat ∧ t.pc = s.pc + 2 ∧ Keeps { i := true } s t) ∧
    (s.i.toNat + (s.reg x).toNat > 0xFFFF → exec (.addI x) s = .next (s.latch
        { kind := .addressError, pc := s.pc, opcode := some (encode (.addI x)),
          addr := some (s.i.toNat + (s.reg x).toNat) }))

/-- LD F, Vx, the words Fx29: I is VX * 5, unmasked (R232). -/
def Obligations.GlyphAddressIsFiveTimesVx : Prop :=
  ∀ (x : Reg) (s : State), IsWordOf (0xF029 + x.val * 0x100) (.ldF x) ∧
    ∃ t, exec (.ldF x) s = .next t ∧ t.i.toNat = (s.reg x).toNat * 5 ∧
    t.pc = s.pc + 2 ∧ Keeps { i := true } s t

/-- LD B, Vx, the words Fx33, stores the three decimal digits at I, I+1, I+2 and nothing else; it raises AddressError
when the range leaves the space and ProtectedWrite when it would write the protected font (R233, R78, R79; D5, D9). -/
def Obligations.BcdStoresThreeDigits : Prop :=
  ∀ (x : Reg) (s : State), s.memWf →
    IsWordOf (0xF033 + x.val * 0x100) (.ldB x) ∧
    (s.i.toNat + 2 ≤ 0xFFF → (s.cfg.fontWriteProtect = true → 0x050 ≤ s.i.toNat) →
      ∃ t, exec (.ldB x) s = .next t ∧
        (t.readByte s.i.toNat).toNat = (s.reg x).toNat / 100 ∧
        (t.readByte (s.i.toNat + 1)).toNat = (s.reg x).toNat / 10 % 10 ∧
        (t.readByte (s.i.toNat + 2)).toNat = (s.reg x).toNat % 10 ∧
        t.pc = s.pc + 2 ∧ Keeps { mem := some (s.iAddr, 3) } s t) ∧
    (s.i.toNat + 2 > 0xFFF → exec (.ldB x) s = .next (s.latch
      { kind := .addressError, pc := s.pc, opcode := some (encode (.ldB x)), addr := some (max s.i.toNat 0x1000) })) ∧
    (s.cfg.fontWriteProtect = true ∧ s.i.toNat < 0x050 → exec (.ldB x) s = .next (s.latch
      { kind := .protectedWrite, pc := s.pc, opcode := some (encode (.ldB x)), addr := some s.i.toNat }))

/-- LD [I], Vx, the words Fx55, stores V0..VX at I..I+x and nothing else, I unchanged, with the same two faults (R234,
R78, R79; D5, D9). -/
def Obligations.BlockStoreCopiesRegisters : Prop :=
  ∀ (x : Reg) (s : State), s.memWf →
    IsWordOf (0xF055 + x.val * 0x100) (.ldMemVx x) ∧
    (s.i.toNat + x.val ≤ 0xFFF → (s.cfg.fontWriteProtect = true → 0x050 ≤ s.i.toNat) →
      ∃ t, exec (.ldMemVx x) s = .next t ∧
        (∀ r : Reg, r ≤ x → t.readByte (s.i.toNat + r.val) = s.reg r) ∧
        t.pc = s.pc + 2 ∧ Keeps { mem := some (s.iAddr, x.val + 1) } s t) ∧
    (s.i.toNat + x.val > 0xFFF → exec (.ldMemVx x) s = .next (s.latch
        { kind := .addressError, pc := s.pc, opcode := some (encode (.ldMemVx x)),
          addr := some (max s.i.toNat 0x1000) })) ∧
    (s.cfg.fontWriteProtect = true ∧ s.i.toNat < 0x050 → exec (.ldMemVx x) s = .next (s.latch
      { kind := .protectedWrite, pc := s.pc, opcode := some (encode (.ldMemVx x)), addr := some s.i.toNat }))

/-- LD Vx, [I], the words Fx65, loads V0..VX from I..I+x, I unchanged, VF only when x = 0xF; AddressError with no
register written when the range leaves the space (R235). -/
def Obligations.BlockLoadCopiesMemory : Prop :=
  ∀ (x : Reg) (s : State), IsWordOf (0xF065 + x.val * 0x100) (.ldVxMem x) ∧
    (s.i.toNat + x.val ≤ 0xFFF → ∃ t, exec (.ldVxMem x) s = .next t ∧
      (∀ r : Reg, r ≤ x → t.reg r = s.readByte (s.i.toNat + r.val)) ∧ (∀ r : Reg, x < r → t.reg r = s.reg r) ∧
      t.pc = s.pc + 2 ∧ Keeps { regs := (List.finRange 16).filter (· ≤ x) } s t) ∧
    (s.i.toNat + x.val > 0xFFF → exec (.ldVxMem x) s = .next (s.latch
        { kind := .addressError, pc := s.pc, opcode := some (encode (.ldVxMem x)),
          addr := some (max s.i.toNat 0x1000) }))

/-- Memory is written by FX33 and FX55 only, and only in their ranges: a byte that a step changes was stored by one
(R72, R77, R236). -/
def Obligations.OnlyStoresChangeMemory : Prop :=
  ∀ (s t : State) (a : Nat), step s = .next t → t.readByte a ≠ s.readByte a →
    (∃ x, Runs s (.ldB x) ∧ s.i.toNat ≤ a ∧ a < s.i.toNat + 3) ∨
    (∃ x, Runs s (.ldMemVx x) ∧ s.i.toNat ≤ a ∧ a < s.i.toNat + x.val + 1)

/-! ## Display -/

/-- A pixel is bit 63 - c of row r, and writing one replaces that bit and no other (R40). -/
def Obligations.PixelIsOneBitOfARow : Prop :=
  ∀ (s : State) (c : Nat) (r : Fin 32) (b : Bool), c < 64 →
    s.pixel c r.val = s.fb[r].getLsbD (63 - c) ∧
    (∀ (r' : Fin 32) (k : Nat), k < 64 → (s.setPixel c r.val b).fb[r'].getLsbD k =
      if r' = r ∧ k = 63 - c then b else s.fb[r'].getLsbD k)

/-- CLS, the word 00E0, clears every row, reports changed and leaves VF alone (R260). -/
def Obligations.ClsClearsEveryPixel : Prop :=
  IsWordOf 0x00E0 .cls ∧
  ∀ s : State, ∃ t, exec .cls s = .next t ∧ (∀ r : Fin 32, t.fb[r] = 0) ∧ t.out.changed = true ∧
    t.pc = s.pc + 2 ∧ Keeps { fb := true, changed := true } s t

/-- DRW, the words Dxyn, inverts exactly the screen pixels under a set bit of the sprite, toroidally, and no other; it
reports changed (R261, R262, R263; the bit order is the spec's own decision D18, N = 0 its D17). -/
def Obligations.DrawXorsTheSpriteOntoTheScreen : Prop :=
  ∀ (x y : Reg) (n : Nibble) (s : State), (n.val = 0 ∨ s.i.toNat + n.val ≤ 0x1000) →
    IsWordOf (0xD000 + x.val * 0x100 + y.val * 0x10 + n.val) (.drw x y n) ∧
    ∃ t, exec (.drw x y n) s = .next t ∧
      (∀ c r, c < 64 → r < 32 → t.pixel c r =
        (s.pixel c r ^^ spriteBit s s.i.toNat n.val ((s.reg x).toNat % 64) ((s.reg y).toNat % 32) c r)) ∧
      t.out.changed = true ∧ t.pc = s.pc + 2 ∧ Keeps { regs := [VF], fb := true, changed := true } s t

/-- VF after a draw is 1 if some lit pixel lay under a set bit of the sprite, else 0; with x or y = 0xF the old VF was
the coordinate (R261, R264). -/
def Obligations.DrawFlagsACollision : Prop :=
  ∀ (x y : Reg) (n : Nibble) (s t : State), (n.val = 0 ∨ s.i.toNat + n.val ≤ 0x1000) →
    exec (.drw x y n) s = .next t →
    ((∃ c r, c < 64 ∧ r < 32 ∧ s.pixel c r = true ∧
        spriteBit s s.i.toNat n.val ((s.reg x).toNat % 64) ((s.reg y).toNat % 32) c r = true) → t.reg VF = 1) ∧
    ((∀ c r, c < 64 → r < 32 → s.pixel c r = true →
        spriteBit s s.i.toNat n.val ((s.reg x).toNat % 64) ((s.reg y).toNat % 32) c r = false) → t.reg VF = 0)

/-- DRW whose sprite rows leave the address space raises AddressError, with no pixel and no VF written; N = 0 reads no
memory and never does (R261, R78; C3, D9). -/
def Obligations.DrawOutsideMemoryRaises : Prop :=
  ∀ (x y : Reg) (n : Nibble) (s : State), 0 < n.val → s.i.toNat + n.val - 1 > 0xFFF →
    exec (.drw x y n) s = .next (s.latch
      { kind := .addressError, pc := s.pc, opcode := some (encode (.drw x y n)), addr := some (max s.i.toNat 0x1000) })

/-- A step that changes the framebuffer ran CLS or DRW (R39, R266). -/
def Obligations.OnlyClsAndDrwWriteTheScreen : Prop :=
  ∀ s t : State, step s = .next t → t.fb ≠ s.fb → Runs s .cls ∨ ∃ x y n, Runs s (.drw x y n)

/-- A step's `changed` output is true exactly when it executed and committed CLS or DRW, and the `raised` output of a
step of a core that was not halted is the fault it raised, else None (R140). -/
def Obligations.ChangedIsReportedByClsAndDrwOnly : Prop :=
  ∀ s t : State, step s = .next t →
    (t.out.changed = true ↔ t.fault = none ∧ (Runs s .cls ∨ ∃ x y n, Runs s (.drw x y n))) ∧
    (s.fault = none → t.out.raised = t.fault)

/-- A step that changes the call stack or SP ran CALL or RET (R37). -/
def Obligations.OnlyCallAndReturnTouchTheStack : Prop :=
  ∀ s t : State, step s = .next t → (t.stack ≠ s.stack ∨ t.sp ≠ s.sp) → Runs s .ret ∨ ∃ nnn, Runs s (.call nnn)

/-! ## Keys and timers -/

/-- SKP and SKNP, the words Ex9E and ExA1, test the held bit of key VX; VX above 0xF raises KeyIndexRange(VX) (R290,
R291; the spec's own decision D12). -/
def Obligations.KeySkipsTestOneKey : Prop :=
  ∀ (x : Reg) (s : State),
    IsWordOf (0xE09E + x.val * 0x100) (.skp x) ∧ IsWordOf (0xE0A1 + x.val * 0x100) (.sknp x) ∧
    ((s.reg x).toNat ≤ 0xF →
      (∃ t, exec (.skp x) s = .next t ∧
        t.pc = (if s.keys.getLsbD (s.reg x).toNat then s.pc + 4 else s.pc + 2) ∧ Keeps {} s t) ∧
      (∃ t, exec (.sknp x) s = .next t ∧
        t.pc = (if s.keys.getLsbD (s.reg x).toNat then s.pc + 2 else s.pc + 4) ∧ Keeps {} s t)) ∧
    ((s.reg x).toNat > 0xF →
      exec (.skp x) s = .next (s.latch
        { kind := .keyIndexRange, pc := s.pc, opcode := some (encode (.skp x)),
          addr := some (s.reg x).toNat }) ∧
      exec (.sknp x) s = .next (s.latch
        { kind := .keyIndexRange, pc := s.pc, opcode := some (encode (.sknp x)),
          addr := some (s.reg x).toNat }))

/-- FX07, FX15 and FX18 move a value between VX and a timer; the deadline is not reset (R292, R294, R295; the
directions are general knowledge, G4). -/
def Obligations.TimerMovesCopyTheValue : Prop :=
  ∀ (x : Reg) (s : State),
    IsWordOf (0xF007 + x.val * 0x100) (.ldVxDt x) ∧ IsWordOf (0xF015 + x.val * 0x100) (.ldDtVx x) ∧
    IsWordOf (0xF018 + x.val * 0x100) (.ldStVx x) ∧
    (∃ t, exec (.ldVxDt x) s = .next t ∧ t.reg x = s.dt ∧ t.pc = s.pc + 2 ∧ Keeps { regs := [x] } s t) ∧
    (∃ t, exec (.ldDtVx x) s = .next t ∧ t.dt = s.reg x ∧ t.pc = s.pc + 2 ∧ Keeps { dt := true } s t) ∧
    (∃ t, exec (.ldStVx x) s = .next t ∧ t.st = s.reg x ∧ t.pc = s.pc + 2 ∧ Keeps { st := true } s t)

/-- LD Vx, K, the words Fx0A, enters the key wait with the keys held now, PC at pc0 + 2, and writes no register (R293;
D13). -/
def Obligations.KeyWaitRemembersTheKeysHeld : Prop :=
  ∀ (x : Reg) (s : State), IsWordOf (0xF00A + x.val * 0x100) (.ldVxK x) ∧
    ∃ t, exec (.ldVxK x) s = .next t ∧ t.wait = some { x := x, prev := s.keys } ∧
    t.pc = s.pc + 2 ∧ Keeps { wait := true } s t

/-- A step in the key wait polls: the lowest key that went down since the last observation ends it and its index goes
to VX; with none the keys are remembered. No instruction is fetched, and the timers, the deadline and beep are what
the synchronizer makes of them; nothing else changes (R48, R296, R297, R138; D13, D14). That the step's keys and `now`
land at its start is the model's choice (notes/assumptions/4.md). -/
def Obligations.KeyWaitPollTakesTheLowestNewKey : Prop :=
  ∀ (s : State) (kw : KeyWait), s.fault = none → s.wait = some kw →
    ∃ t, step s = .next t ∧ t.fault = none ∧ t.pc = s.pc ∧ t.keys = s.nextInput.keys ∧ t.cfg = s.cfg ∧
      t.dt = (s.timersAt s.nextInput.now).dt ∧ t.st = (s.timersAt s.nextInput.now).st ∧
      t.deadline = (s.timersAt s.nextInput.now).deadline ∧
      t.out = { changed := false, beep := (s.timersAt s.nextInput.now).beep, raised := none } ∧
      (∀ r, r ≠ kw.x → t.reg r = s.reg r) ∧ t.i = s.i ∧ t.stack = s.stack ∧ t.sp = s.sp ∧ t.fb = s.fb ∧
      (∀ a, t.readByte a = s.readByte a) ∧
      (∀ k, k < 16 → WentDown s.nextInput.keys kw.prev k →
        (∀ j, j < k → ¬ WentDown s.nextInput.keys kw.prev j) → t.wait = none ∧ (t.reg kw.x).toNat = k) ∧
      ((∀ k, k < 16 → ¬ WentDown s.nextInput.keys kw.prev k) →
        t.wait = some { x := kw.x, prev := s.nextInput.keys } ∧ t.reg kw.x = s.reg kw.x)

/-- Only FX0A suspends execution; only a key that went down ends the wait; and while no key is pressed the core polls
on, each step answering, with PC where it was (R298). Which keys a step sees is the model's choice
(notes/assumptions/4.md). -/
def Obligations.OnlyTheKeyWaitSuspends : Prop :=
  (∀ s t : State, step s = .next t → s.wait = none → t.wait ≠ none → ∃ x, Runs s (.ldVxK x)) ∧
  (∀ (s t : State) (kw : KeyWait), step s = .next t → s.wait = some kw → t.wait = none →
    ∃ k, k < 16 ∧ WentDown s.nextInput.keys kw.prev k) ∧
  (∀ (n : Nat) (s : State) (kw : KeyWait), s.fault = none → s.wait = some kw → n ≤ s.inputs.length →
    (∀ inp ∈ s.inputs, inp.keys = 0) →
    ∃ t prev, Host.Core.run Sys2Proof.core n s = .next t ∧ t.fault = none ∧ t.wait = some { x := kw.x, prev := prev } ∧
      t.pc = s.pc)

/-- The synchronizer's loop in closed form: one decrement for each boundary not after `now`, at most
MAX_CATCHUP_TICKS; the timers stop at 0; the deadline moves by whole periods or, when it is still not in the future,
to now + TICK_PERIOD; beep exactly when ST reached 0 from above in this run; no other field changes (R340 to R344; the
spec's own decisions D2, D3, D15, D23). -/
def Obligations.SynchronizerCountsCrossedBoundaries : Prop :=
  ∀ (s : State) (now : Nat), s.cfg.wf = true →
    let k := ticksDue s.cfg s.deadline now
    let t := s.timerSync now
    t.dt.toNat = s.dt.toNat - k ∧ t.st.toNat = s.st.toNat - k ∧
    t.deadline = (if s.deadline + k * s.cfg.tickPeriod ≤ now then now + s.cfg.tickPeriod
      else s.deadline + k * s.cfg.tickPeriod) ∧
    (t.out.beep = true ↔ 1 ≤ s.st.toNat ∧ s.st.toNat ≤ k) ∧
    t = { s with dt := t.dt, st := t.st, deadline := t.deadline, out := { s.out with beep := t.out.beep } }

/-- A clock that reaches one boundary after another makes exactly one decrement at each: DT is max(0, DT - n) after n
of them, and the deadline has moved n periods (R343; the spec's own derivation). -/
def Obligations.OneDecrementPerBoundary : Prop :=
  ∀ (n : Nat) (s : State), s.cfg.wf = true →
    (tickByTick n s).dt.toNat = s.dt.toNat - n ∧ (tickByTick n s).st.toNat = s.st.toNat - n ∧
    (tickByTick n s).deadline = s.deadline + n * s.cfg.tickPeriod

/-! ## Reset -/

/-- The reset state: every field at the value of R52, with the defaults of R8, whatever the OPEN parameters and the
time of reset are. The font default is general knowledge (notes/assumptions/3.md); no ROM is loaded
(notes/assumptions/8.md). -/
def Obligations.ResetStateHoldsTheTable : Prop :=
  let s := State.reset
  (∀ k : Fin 80, s.readByte k.val = standardFont[k]) ∧ (∀ a, 80 ≤ a → s.readByte a = 0) ∧
  (∀ x, s.reg x = 0) ∧ s.i = 0 ∧ s.pc = 0x200 ∧ (∀ k : Fin 16, s.stack[k] = 0) ∧ s.sp = 0 ∧ s.dt = 0 ∧ s.st = 0 ∧
  (∀ c r, s.pixel c r = false) ∧ s.keys = 0 ∧ s.deadline = Config.resetTime + s.cfg.tickPeriod ∧
  s.wait = none ∧ s.fault = none ∧ s.cfg.fontWriteProtect = true ∧ s.cfg.fetchAlignCheck = true

/-- reset(rom, now0): the table of R52 with the ROM at 0x200, for every choice of the parameters (R370, R371, R373;
D26). -/
def Obligations.BootLoadsTheRom : Prop :=
  ∀ (c : Config) (rom : List Byte) (now0 : Nat), 1 ≤ rom.length → rom.length ≤ 3584 →
    ∃ s, boot c rom now0 = .ok s ∧
      (∀ k (h : k < rom.length), s.readByte (0x200 + k) = rom[k]) ∧
      (∀ k : Fin 80, s.readByte k.val = c.font[k]) ∧
      (∀ a, 80 ≤ a → ¬ (0x200 ≤ a ∧ a < 0x200 + rom.length) → s.readByte a = 0) ∧
      (∀ x, s.reg x = 0) ∧ s.i = 0 ∧ s.pc = 0x200 ∧ (∀ k : Fin 16, s.stack[k] = 0) ∧ s.sp = 0 ∧
      s.dt = 0 ∧ s.st = 0 ∧ (∀ x y, s.pixel x y = false) ∧ s.keys = 0 ∧ s.deadline = now0 + c.tickPeriod ∧
      s.wait = none ∧ s.fault = none ∧ s.cfg = c

/-- A ROM of no bytes or of more than 3584 is refused before any state exists (R372), with the code 8 (R320; the
spec's own decision D9). -/
def Obligations.MalformedRomIsRefused : Prop :=
  ∀ (c : Config) (rom : List Byte) (now0 : Nat),
    (boot c rom now0 = .error .malformedRom ↔ rom.length = 0 ∨ rom.length > 3584) ∧ LoadError.malformedRom.code = 8

/-! ## Invariants -/

/-- The reset state meets both invariants. -/
def Obligations.ResetMeetsTheInvariants : Prop := Inv State.reset ∧ PcInRange State.reset

/-- From every state that meets it, a step keeps the invariant: legal parameters, canonical memory, the font intact
while it is protected, and no key wait in a halted core (R53, R79). -/
def Obligations.StepKeepsTheInvariant : Prop :=
  ∀ s t : State, Inv s → step s = .next t → Inv t

/-- PC never wraps: from every state in range, a step leaves PC at most 0x10FE and every stack entry at most 0x1000
(R36, R134). -/
def Obligations.StepKeepsPcInRange : Prop :=
  ∀ s t : State, PcInRange s → step s = .next t → PcInRange t
end

