-- ==== Sys2Proof/Laws/Decode.lean ====
section
/-!
SUPPORT. The fields of an opcode as naturals, and the fields of an encoded word.
-/

namespace Sys2Proof

/-! ## Fields as naturals (R101) -/

theorem opClass_toNat (op : Word) : (opClass op).toNat = op.toNat / 4096 := by
  have := op.isLt
  simp [opClass, Nat.shiftRight_eq_div_pow]
  omega

theorem opX_val (op : Word) : (opX op).val = op.toNat / 256 % 16 := by
  simp [opX, Nat.shiftRight_eq_div_pow]

theorem opY_val (op : Word) : (opY op).val = op.toNat / 16 % 16 := by
  simp [opY, Nat.shiftRight_eq_div_pow]

theorem opN_val (op : Word) : (opN op).val = op.toNat % 16 := by
  simp [opN]

theorem opNN_toNat (op : Word) : (opNN op).toNat = op.toNat % 256 := by
  simp [opNN]

theorem opNNN_toNat (op : Word) : (opNNN op).toNat = op.toNat % 4096 := by
  simp [opNNN]

/-- The opcode of two bytes, as a natural (R74). -/
theorem wordOfBytes_toNat (hi lo : Byte) : (wordOfBytes hi lo).toNat = hi.toNat * 256 + lo.toNat := by
  have := lo.isLt
  simp only [wordOfBytes, BitVec.toNat_append]
  rw [← Nat.shiftLeft_add_eq_or_of_lt this, Nat.shiftLeft_eq]

theorem highByte_toNat (op : Word) : (highByte op).toNat = op.toNat / 256 := by
  have := op.isLt
  simp [highByte, Nat.shiftRight_eq_div_pow]
  omega

theorem lowByte_toNat (op : Word) : (lowByte op).toNat = op.toNat % 256 := by
  simp [lowByte]

/-- The two stored bytes of a word make the word again (R73). -/
@[simp] theorem wordOfBytes_bytes (op : Word) : wordOfBytes (highByte op) (lowByte op) = op := by
  apply BitVec.eq_of_toNat_eq
  rw [wordOfBytes_toNat, highByte_toNat, lowByte_toNat]
  omega

/-! ## Encoded words as naturals (R102) -/

theorem packNNN_toNat (c : BitVec 4) (nnn : Addr) : (packNNN c nnn).toNat = c.toNat * 4096 + nnn.toNat := by
  have := nnn.isLt
  simp only [packNNN, BitVec.toNat_append]
  rw [← Nat.shiftLeft_add_eq_or_of_lt this, Nat.shiftLeft_eq]

theorem packXNN_toNat (c : BitVec 4) (x : Reg) (nn : Byte) :
    (packXNN c x nn).toNat = c.toNat * 4096 + x.val * 256 + nn.toNat := by
  have hx := x.isLt
  have hn := nn.isLt
  simp only [packXNN, BitVec.toNat_append, BitVec.toNat_ofFin]
  rw [← Nat.shiftLeft_add_eq_or_of_lt (show x.val < 2 ^ 4 from hx),
    ← Nat.shiftLeft_add_eq_or_of_lt (show nn.toNat < 2 ^ 8 from hn)]
  simp only [Nat.shiftLeft_eq]
  omega

theorem packXYN_toNat (c : BitVec 4) (x y : Reg) (n : Nibble) :
    (packXYN c x y n).toNat = c.toNat * 4096 + x.val * 256 + y.val * 16 + n.val := by
  have hx := x.isLt
  have hy := y.isLt
  have hn := n.isLt
  simp only [packXYN, BitVec.toNat_append, BitVec.toNat_ofFin]
  rw [← Nat.shiftLeft_add_eq_or_of_lt (show x.val < 2 ^ 4 from hx),
    ← Nat.shiftLeft_add_eq_or_of_lt (show y.val < 2 ^ 4 from hy),
    ← Nat.shiftLeft_add_eq_or_of_lt (show n.val < 2 ^ 4 from hn)]
  simp only [Nat.shiftLeft_eq]
  omega

/-! ## The fields of an encoded word -/

@[simp] theorem opClass_packNNN (c : BitVec 4) (nnn : Addr) : opClass (packNNN c nnn) = c := by
  apply BitVec.eq_of_toNat_eq
  have := nnn.isLt
  rw [opClass_toNat, packNNN_toNat]; omega

@[simp] theorem opNNN_packNNN (c : BitVec 4) (nnn : Addr) : opNNN (packNNN c nnn) = nnn := by
  apply BitVec.eq_of_toNat_eq
  have := nnn.isLt
  rw [opNNN_toNat, packNNN_toNat]; omega

@[simp] theorem opClass_packXNN (c : BitVec 4) (x : Reg) (nn : Byte) : opClass (packXNN c x nn) = c := by
  apply BitVec.eq_of_toNat_eq
  have := nn.isLt
  rw [opClass_toNat, packXNN_toNat]; omega

@[simp] theorem opX_packXNN (c : BitVec 4) (x : Reg) (nn : Byte) : opX (packXNN c x nn) = x := by
  apply Fin.ext
  have := nn.isLt
  rw [opX_val, packXNN_toNat]; omega

@[simp] theorem opNN_packXNN (c : BitVec 4) (x : Reg) (nn : Byte) : opNN (packXNN c x nn) = nn := by
  apply BitVec.eq_of_toNat_eq
  have := nn.isLt
  rw [opNN_toNat, packXNN_toNat]; omega

@[simp] theorem opClass_packXYN (c : BitVec 4) (x y : Reg) (n : Nibble) : opClass (packXYN c x y n) = c := by
  apply BitVec.eq_of_toNat_eq
  rw [opClass_toNat, packXYN_toNat]; omega

@[simp] theorem opX_packXYN (c : BitVec 4) (x y : Reg) (n : Nibble) : opX (packXYN c x y n) = x := by
  apply Fin.ext
  rw [opX_val, packXYN_toNat]; omega

@[simp] theorem opY_packXYN (c : BitVec 4) (x y : Reg) (n : Nibble) : opY (packXYN c x y n) = y := by
  apply Fin.ext
  rw [opY_val, packXYN_toNat]; omega

@[simp] theorem opN_packXYN (c : BitVec 4) (x y : Reg) (n : Nibble) : opN (packXYN c x y n) = n := by
  apply Fin.ext
  rw [opN_val, packXYN_toNat]; omega

end Sys2Proof
end

