-- ==== Sys2Proof/Laws/State.lean ====
section
/-!
SUPPORT. One lemma per field per update of the state, so that no later proof unfolds a record update; and the shared
operations seen through the accessors of registers and memory.
-/

namespace Sys2Proof.Machine

variable (s : State)

/-! ## writeByte -/

@[simp] theorem State.writeByte_mem (a : Nat) (b : Byte) : (s.writeByte a b).mem = Memory.write (resetByte s.cfg) s.mem a b := rfl
@[simp] theorem State.writeByte_v (a : Nat) (b : Byte) : (s.writeByte a b).v = s.v := rfl
@[simp] theorem State.writeByte_i (a : Nat) (b : Byte) : (s.writeByte a b).i = s.i := rfl
@[simp] theorem State.writeByte_pc (a : Nat) (b : Byte) : (s.writeByte a b).pc = s.pc := rfl
@[simp] theorem State.writeByte_stack (a : Nat) (b : Byte) : (s.writeByte a b).stack = s.stack := rfl
@[simp] theorem State.writeByte_sp (a : Nat) (b : Byte) : (s.writeByte a b).sp = s.sp := rfl
@[simp] theorem State.writeByte_dt (a : Nat) (b : Byte) : (s.writeByte a b).dt = s.dt := rfl
@[simp] theorem State.writeByte_st (a : Nat) (b : Byte) : (s.writeByte a b).st = s.st := rfl
@[simp] theorem State.writeByte_fb (a : Nat) (b : Byte) : (s.writeByte a b).fb = s.fb := rfl
@[simp] theorem State.writeByte_keys (a : Nat) (b : Byte) : (s.writeByte a b).keys = s.keys := rfl
@[simp] theorem State.writeByte_deadline (a : Nat) (b : Byte) : (s.writeByte a b).deadline = s.deadline := rfl
@[simp] theorem State.writeByte_wait (a : Nat) (b : Byte) : (s.writeByte a b).wait = s.wait := rfl
@[simp] theorem State.writeByte_fault (a : Nat) (b : Byte) : (s.writeByte a b).fault = s.fault := rfl
@[simp] theorem State.writeByte_cfg (a : Nat) (b : Byte) : (s.writeByte a b).cfg = s.cfg := rfl
@[simp] theorem State.writeByte_now (a : Nat) (b : Byte) : (s.writeByte a b).now = s.now := rfl
@[simp] theorem State.writeByte_rnd (a : Nat) (b : Byte) : (s.writeByte a b).rnd = s.rnd := rfl
@[simp] theorem State.writeByte_inputs (a : Nat) (b : Byte) : (s.writeByte a b).inputs = s.inputs := rfl
@[simp] theorem State.writeByte_stepNo (a : Nat) (b : Byte) : (s.writeByte a b).stepNo = s.stepNo := rfl
@[simp] theorem State.writeByte_out (a : Nat) (b : Byte) : (s.writeByte a b).out = s.out := rfl

/-! ## setReg -/

@[simp] theorem State.setReg_mem (x : Reg) (b : Byte) : (s.setReg x b).mem = s.mem := rfl
@[simp] theorem State.setReg_v (x : Reg) (b : Byte) : (s.setReg x b).v = s.v.set x.val b := rfl
@[simp] theorem State.setReg_i (x : Reg) (b : Byte) : (s.setReg x b).i = s.i := rfl
@[simp] theorem State.setReg_pc (x : Reg) (b : Byte) : (s.setReg x b).pc = s.pc := rfl
@[simp] theorem State.setReg_stack (x : Reg) (b : Byte) : (s.setReg x b).stack = s.stack := rfl
@[simp] theorem State.setReg_sp (x : Reg) (b : Byte) : (s.setReg x b).sp = s.sp := rfl
@[simp] theorem State.setReg_dt (x : Reg) (b : Byte) : (s.setReg x b).dt = s.dt := rfl
@[simp] theorem State.setReg_st (x : Reg) (b : Byte) : (s.setReg x b).st = s.st := rfl
@[simp] theorem State.setReg_fb (x : Reg) (b : Byte) : (s.setReg x b).fb = s.fb := rfl
@[simp] theorem State.setReg_keys (x : Reg) (b : Byte) : (s.setReg x b).keys = s.keys := rfl
@[simp] theorem State.setReg_deadline (x : Reg) (b : Byte) : (s.setReg x b).deadline = s.deadline := rfl
@[simp] theorem State.setReg_wait (x : Reg) (b : Byte) : (s.setReg x b).wait = s.wait := rfl
@[simp] theorem State.setReg_fault (x : Reg) (b : Byte) : (s.setReg x b).fault = s.fault := rfl
@[simp] theorem State.setReg_cfg (x : Reg) (b : Byte) : (s.setReg x b).cfg = s.cfg := rfl
@[simp] theorem State.setReg_now (x : Reg) (b : Byte) : (s.setReg x b).now = s.now := rfl
@[simp] theorem State.setReg_rnd (x : Reg) (b : Byte) : (s.setReg x b).rnd = s.rnd := rfl
@[simp] theorem State.setReg_inputs (x : Reg) (b : Byte) : (s.setReg x b).inputs = s.inputs := rfl
@[simp] theorem State.setReg_stepNo (x : Reg) (b : Byte) : (s.setReg x b).stepNo = s.stepNo := rfl
@[simp] theorem State.setReg_out (x : Reg) (b : Byte) : (s.setReg x b).out = s.out := rfl

/-! ## setI -/

@[simp] theorem State.setI_mem (w : Word) : (s.setI w).mem = s.mem := rfl
@[simp] theorem State.setI_v (w : Word) : (s.setI w).v = s.v := rfl
@[simp] theorem State.setI_i (w : Word) : (s.setI w).i = w := rfl
@[simp] theorem State.setI_pc (w : Word) : (s.setI w).pc = s.pc := rfl
@[simp] theorem State.setI_stack (w : Word) : (s.setI w).stack = s.stack := rfl
@[simp] theorem State.setI_sp (w : Word) : (s.setI w).sp = s.sp := rfl
@[simp] theorem State.setI_dt (w : Word) : (s.setI w).dt = s.dt := rfl
@[simp] theorem State.setI_st (w : Word) : (s.setI w).st = s.st := rfl
@[simp] theorem State.setI_fb (w : Word) : (s.setI w).fb = s.fb := rfl
@[simp] theorem State.setI_keys (w : Word) : (s.setI w).keys = s.keys := rfl
@[simp] theorem State.setI_deadline (w : Word) : (s.setI w).deadline = s.deadline := rfl
@[simp] theorem State.setI_wait (w : Word) : (s.setI w).wait = s.wait := rfl
@[simp] theorem State.setI_fault (w : Word) : (s.setI w).fault = s.fault := rfl
@[simp] theorem State.setI_cfg (w : Word) : (s.setI w).cfg = s.cfg := rfl
@[simp] theorem State.setI_now (w : Word) : (s.setI w).now = s.now := rfl
@[simp] theorem State.setI_rnd (w : Word) : (s.setI w).rnd = s.rnd := rfl
@[simp] theorem State.setI_inputs (w : Word) : (s.setI w).inputs = s.inputs := rfl
@[simp] theorem State.setI_stepNo (w : Word) : (s.setI w).stepNo = s.stepNo := rfl
@[simp] theorem State.setI_out (w : Word) : (s.setI w).out = s.out := rfl

/-! ## advance -/

@[simp] theorem State.advance_mem : s.advance.mem = s.mem := rfl
@[simp] theorem State.advance_v : s.advance.v = s.v := rfl
@[simp] theorem State.advance_i : s.advance.i = s.i := rfl
@[simp] theorem State.advance_pc : s.advance.pc = s.pc + 2 := rfl
@[simp] theorem State.advance_stack : s.advance.stack = s.stack := rfl
@[simp] theorem State.advance_sp : s.advance.sp = s.sp := rfl
@[simp] theorem State.advance_dt : s.advance.dt = s.dt := rfl
@[simp] theorem State.advance_st : s.advance.st = s.st := rfl
@[simp] theorem State.advance_fb : s.advance.fb = s.fb := rfl
@[simp] theorem State.advance_keys : s.advance.keys = s.keys := rfl
@[simp] theorem State.advance_deadline : s.advance.deadline = s.deadline := rfl
@[simp] theorem State.advance_wait : s.advance.wait = s.wait := rfl
@[simp] theorem State.advance_fault : s.advance.fault = s.fault := rfl
@[simp] theorem State.advance_cfg : s.advance.cfg = s.cfg := rfl
@[simp] theorem State.advance_now : s.advance.now = s.now := rfl
@[simp] theorem State.advance_rnd : s.advance.rnd = s.rnd := rfl
@[simp] theorem State.advance_inputs : s.advance.inputs = s.inputs := rfl
@[simp] theorem State.advance_stepNo : s.advance.stepNo = s.stepNo := rfl
@[simp] theorem State.advance_out : s.advance.out = s.out := rfl

/-! ## jump -/

@[simp] theorem State.jump_mem (w : Word) : (s.jump w).mem = s.mem := rfl
@[simp] theorem State.jump_v (w : Word) : (s.jump w).v = s.v := rfl
@[simp] theorem State.jump_i (w : Word) : (s.jump w).i = s.i := rfl
@[simp] theorem State.jump_pc (w : Word) : (s.jump w).pc = w := rfl
@[simp] theorem State.jump_stack (w : Word) : (s.jump w).stack = s.stack := rfl
@[simp] theorem State.jump_sp (w : Word) : (s.jump w).sp = s.sp := rfl
@[simp] theorem State.jump_dt (w : Word) : (s.jump w).dt = s.dt := rfl
@[simp] theorem State.jump_st (w : Word) : (s.jump w).st = s.st := rfl
@[simp] theorem State.jump_fb (w : Word) : (s.jump w).fb = s.fb := rfl
@[simp] theorem State.jump_keys (w : Word) : (s.jump w).keys = s.keys := rfl
@[simp] theorem State.jump_deadline (w : Word) : (s.jump w).deadline = s.deadline := rfl
@[simp] theorem State.jump_wait (w : Word) : (s.jump w).wait = s.wait := rfl
@[simp] theorem State.jump_fault (w : Word) : (s.jump w).fault = s.fault := rfl
@[simp] theorem State.jump_cfg (w : Word) : (s.jump w).cfg = s.cfg := rfl
@[simp] theorem State.jump_now (w : Word) : (s.jump w).now = s.now := rfl
@[simp] theorem State.jump_rnd (w : Word) : (s.jump w).rnd = s.rnd := rfl
@[simp] theorem State.jump_inputs (w : Word) : (s.jump w).inputs = s.inputs := rfl
@[simp] theorem State.jump_stepNo (w : Word) : (s.jump w).stepNo = s.stepNo := rfl
@[simp] theorem State.jump_out (w : Word) : (s.jump w).out = s.out := rfl

/-! ## push -/

@[simp] theorem State.push_mem (w : Word) (h : s.sp.val < 16) : (s.push w h).mem = s.mem := rfl
@[simp] theorem State.push_v (w : Word) (h : s.sp.val < 16) : (s.push w h).v = s.v := rfl
@[simp] theorem State.push_i (w : Word) (h : s.sp.val < 16) : (s.push w h).i = s.i := rfl
@[simp] theorem State.push_pc (w : Word) (h : s.sp.val < 16) : (s.push w h).pc = s.pc := rfl
@[simp] theorem State.push_stack (w : Word) (h : s.sp.val < 16) : (s.push w h).stack = s.stack.set s.sp.val w := rfl
@[simp] theorem State.push_sp (w : Word) (h : s.sp.val < 16) : (s.push w h).sp = ⟨s.sp.val + 1, by omega⟩ := rfl
@[simp] theorem State.push_dt (w : Word) (h : s.sp.val < 16) : (s.push w h).dt = s.dt := rfl
@[simp] theorem State.push_st (w : Word) (h : s.sp.val < 16) : (s.push w h).st = s.st := rfl
@[simp] theorem State.push_fb (w : Word) (h : s.sp.val < 16) : (s.push w h).fb = s.fb := rfl
@[simp] theorem State.push_keys (w : Word) (h : s.sp.val < 16) : (s.push w h).keys = s.keys := rfl
@[simp] theorem State.push_deadline (w : Word) (h : s.sp.val < 16) : (s.push w h).deadline = s.deadline := rfl
@[simp] theorem State.push_wait (w : Word) (h : s.sp.val < 16) : (s.push w h).wait = s.wait := rfl
@[simp] theorem State.push_fault (w : Word) (h : s.sp.val < 16) : (s.push w h).fault = s.fault := rfl
@[simp] theorem State.push_cfg (w : Word) (h : s.sp.val < 16) : (s.push w h).cfg = s.cfg := rfl
@[simp] theorem State.push_now (w : Word) (h : s.sp.val < 16) : (s.push w h).now = s.now := rfl
@[simp] theorem State.push_rnd (w : Word) (h : s.sp.val < 16) : (s.push w h).rnd = s.rnd := rfl
@[simp] theorem State.push_inputs (w : Word) (h : s.sp.val < 16) : (s.push w h).inputs = s.inputs := rfl
@[simp] theorem State.push_stepNo (w : Word) (h : s.sp.val < 16) : (s.push w h).stepNo = s.stepNo := rfl
@[simp] theorem State.push_out (w : Word) (h : s.sp.val < 16) : (s.push w h).out = s.out := rfl

/-! ## pop -/

@[simp] theorem State.pop_mem (h : 0 < s.sp.val) : (s.pop h).mem = s.mem := rfl
@[simp] theorem State.pop_v (h : 0 < s.sp.val) : (s.pop h).v = s.v := rfl
@[simp] theorem State.pop_i (h : 0 < s.sp.val) : (s.pop h).i = s.i := rfl
@[simp] theorem State.pop_pc (h : 0 < s.sp.val) : (s.pop h).pc = s.stack[s.sp.val - 1] := rfl
@[simp] theorem State.pop_stack (h : 0 < s.sp.val) : (s.pop h).stack = s.stack := rfl
@[simp] theorem State.pop_sp (h : 0 < s.sp.val) : (s.pop h).sp = ⟨s.sp.val - 1, by omega⟩ := rfl
@[simp] theorem State.pop_dt (h : 0 < s.sp.val) : (s.pop h).dt = s.dt := rfl
@[simp] theorem State.pop_st (h : 0 < s.sp.val) : (s.pop h).st = s.st := rfl
@[simp] theorem State.pop_fb (h : 0 < s.sp.val) : (s.pop h).fb = s.fb := rfl
@[simp] theorem State.pop_keys (h : 0 < s.sp.val) : (s.pop h).keys = s.keys := rfl
@[simp] theorem State.pop_deadline (h : 0 < s.sp.val) : (s.pop h).deadline = s.deadline := rfl
@[simp] theorem State.pop_wait (h : 0 < s.sp.val) : (s.pop h).wait = s.wait := rfl
@[simp] theorem State.pop_fault (h : 0 < s.sp.val) : (s.pop h).fault = s.fault := rfl
@[simp] theorem State.pop_cfg (h : 0 < s.sp.val) : (s.pop h).cfg = s.cfg := rfl
@[simp] theorem State.pop_now (h : 0 < s.sp.val) : (s.pop h).now = s.now := rfl
@[simp] theorem State.pop_rnd (h : 0 < s.sp.val) : (s.pop h).rnd = s.rnd := rfl
@[simp] theorem State.pop_inputs (h : 0 < s.sp.val) : (s.pop h).inputs = s.inputs := rfl
@[simp] theorem State.pop_stepNo (h : 0 < s.sp.val) : (s.pop h).stepNo = s.stepNo := rfl
@[simp] theorem State.pop_out (h : 0 < s.sp.val) : (s.pop h).out = s.out := rfl

/-! ## clearScreen -/

@[simp] theorem State.clearScreen_mem : s.clearScreen.mem = s.mem := rfl
@[simp] theorem State.clearScreen_v : s.clearScreen.v = s.v := rfl
@[simp] theorem State.clearScreen_i : s.clearScreen.i = s.i := rfl
@[simp] theorem State.clearScreen_pc : s.clearScreen.pc = s.pc := rfl
@[simp] theorem State.clearScreen_stack : s.clearScreen.stack = s.stack := rfl
@[simp] theorem State.clearScreen_sp : s.clearScreen.sp = s.sp := rfl
@[simp] theorem State.clearScreen_dt : s.clearScreen.dt = s.dt := rfl
@[simp] theorem State.clearScreen_st : s.clearScreen.st = s.st := rfl
@[simp] theorem State.clearScreen_fb : s.clearScreen.fb = Vector.replicate 32 0 := rfl
@[simp] theorem State.clearScreen_keys : s.clearScreen.keys = s.keys := rfl
@[simp] theorem State.clearScreen_deadline : s.clearScreen.deadline = s.deadline := rfl
@[simp] theorem State.clearScreen_wait : s.clearScreen.wait = s.wait := rfl
@[simp] theorem State.clearScreen_fault : s.clearScreen.fault = s.fault := rfl
@[simp] theorem State.clearScreen_cfg : s.clearScreen.cfg = s.cfg := rfl
@[simp] theorem State.clearScreen_now : s.clearScreen.now = s.now := rfl
@[simp] theorem State.clearScreen_rnd : s.clearScreen.rnd = s.rnd := rfl
@[simp] theorem State.clearScreen_inputs : s.clearScreen.inputs = s.inputs := rfl
@[simp] theorem State.clearScreen_stepNo : s.clearScreen.stepNo = s.stepNo := rfl
@[simp] theorem State.clearScreen_out : s.clearScreen.out = s.out := rfl

/-! ## reportChanged -/

@[simp] theorem State.reportChanged_mem : s.reportChanged.mem = s.mem := rfl
@[simp] theorem State.reportChanged_v : s.reportChanged.v = s.v := rfl
@[simp] theorem State.reportChanged_i : s.reportChanged.i = s.i := rfl
@[simp] theorem State.reportChanged_pc : s.reportChanged.pc = s.pc := rfl
@[simp] theorem State.reportChanged_stack : s.reportChanged.stack = s.stack := rfl
@[simp] theorem State.reportChanged_sp : s.reportChanged.sp = s.sp := rfl
@[simp] theorem State.reportChanged_dt : s.reportChanged.dt = s.dt := rfl
@[simp] theorem State.reportChanged_st : s.reportChanged.st = s.st := rfl
@[simp] theorem State.reportChanged_fb : s.reportChanged.fb = s.fb := rfl
@[simp] theorem State.reportChanged_keys : s.reportChanged.keys = s.keys := rfl
@[simp] theorem State.reportChanged_deadline : s.reportChanged.deadline = s.deadline := rfl
@[simp] theorem State.reportChanged_wait : s.reportChanged.wait = s.wait := rfl
@[simp] theorem State.reportChanged_fault : s.reportChanged.fault = s.fault := rfl
@[simp] theorem State.reportChanged_cfg : s.reportChanged.cfg = s.cfg := rfl
@[simp] theorem State.reportChanged_now : s.reportChanged.now = s.now := rfl
@[simp] theorem State.reportChanged_rnd : s.reportChanged.rnd = s.rnd := rfl
@[simp] theorem State.reportChanged_inputs : s.reportChanged.inputs = s.inputs := rfl
@[simp] theorem State.reportChanged_stepNo : s.reportChanged.stepNo = s.stepNo := rfl
@[simp] theorem State.reportChanged_out : s.reportChanged.out = { s.out with changed := true } := rfl

/-! ## latch -/

@[simp] theorem State.latch_mem (r : FaultRecord) : (s.latch r).mem = s.mem := rfl
@[simp] theorem State.latch_v (r : FaultRecord) : (s.latch r).v = s.v := rfl
@[simp] theorem State.latch_i (r : FaultRecord) : (s.latch r).i = s.i := rfl
@[simp] theorem State.latch_pc (r : FaultRecord) : (s.latch r).pc = s.pc := rfl
@[simp] theorem State.latch_stack (r : FaultRecord) : (s.latch r).stack = s.stack := rfl
@[simp] theorem State.latch_sp (r : FaultRecord) : (s.latch r).sp = s.sp := rfl
@[simp] theorem State.latch_dt (r : FaultRecord) : (s.latch r).dt = s.dt := rfl
@[simp] theorem State.latch_st (r : FaultRecord) : (s.latch r).st = s.st := rfl
@[simp] theorem State.latch_fb (r : FaultRecord) : (s.latch r).fb = s.fb := rfl
@[simp] theorem State.latch_keys (r : FaultRecord) : (s.latch r).keys = s.keys := rfl
@[simp] theorem State.latch_deadline (r : FaultRecord) : (s.latch r).deadline = s.deadline := rfl
@[simp] theorem State.latch_wait (r : FaultRecord) : (s.latch r).wait = s.wait := rfl
@[simp] theorem State.latch_fault (r : FaultRecord) : (s.latch r).fault = some r := rfl
@[simp] theorem State.latch_cfg (r : FaultRecord) : (s.latch r).cfg = s.cfg := rfl
@[simp] theorem State.latch_now (r : FaultRecord) : (s.latch r).now = s.now := rfl
@[simp] theorem State.latch_rnd (r : FaultRecord) : (s.latch r).rnd = s.rnd := rfl
@[simp] theorem State.latch_inputs (r : FaultRecord) : (s.latch r).inputs = s.inputs := rfl
@[simp] theorem State.latch_stepNo (r : FaultRecord) : (s.latch r).stepNo = s.stepNo := rfl
@[simp] theorem State.latch_out (r : FaultRecord) : (s.latch r).out = { changed := false, beep := false, raised := some r } := rfl

/-! ## haltedStep -/

@[simp] theorem State.haltedStep_mem : s.haltedStep.mem = s.mem := rfl
@[simp] theorem State.haltedStep_v : s.haltedStep.v = s.v := rfl
@[simp] theorem State.haltedStep_i : s.haltedStep.i = s.i := rfl
@[simp] theorem State.haltedStep_pc : s.haltedStep.pc = s.pc := rfl
@[simp] theorem State.haltedStep_stack : s.haltedStep.stack = s.stack := rfl
@[simp] theorem State.haltedStep_sp : s.haltedStep.sp = s.sp := rfl
@[simp] theorem State.haltedStep_dt : s.haltedStep.dt = s.dt := rfl
@[simp] theorem State.haltedStep_st : s.haltedStep.st = s.st := rfl
@[simp] theorem State.haltedStep_fb : s.haltedStep.fb = s.fb := rfl
@[simp] theorem State.haltedStep_keys : s.haltedStep.keys = s.keys := rfl
@[simp] theorem State.haltedStep_deadline : s.haltedStep.deadline = s.deadline := rfl
@[simp] theorem State.haltedStep_wait : s.haltedStep.wait = s.wait := rfl
@[simp] theorem State.haltedStep_fault : s.haltedStep.fault = s.fault := rfl
@[simp] theorem State.haltedStep_cfg : s.haltedStep.cfg = s.cfg := rfl
@[simp] theorem State.haltedStep_now : s.haltedStep.now = s.now := rfl
@[simp] theorem State.haltedStep_rnd : s.haltedStep.rnd = s.rnd := rfl
@[simp] theorem State.haltedStep_inputs : s.haltedStep.inputs = s.inputs := rfl
@[simp] theorem State.haltedStep_stepNo : s.haltedStep.stepNo = s.stepNo := rfl
@[simp] theorem State.haltedStep_out : s.haltedStep.out = StepOutput.idle := rfl

/-! ## receive -/

@[simp] theorem State.receive_mem : s.receive.mem = s.mem := rfl
@[simp] theorem State.receive_v : s.receive.v = s.v := rfl
@[simp] theorem State.receive_i : s.receive.i = s.i := rfl
@[simp] theorem State.receive_pc : s.receive.pc = s.pc := rfl
@[simp] theorem State.receive_stack : s.receive.stack = s.stack := rfl
@[simp] theorem State.receive_sp : s.receive.sp = s.sp := rfl
@[simp] theorem State.receive_dt : s.receive.dt = s.dt := rfl
@[simp] theorem State.receive_st : s.receive.st = s.st := rfl
@[simp] theorem State.receive_fb : s.receive.fb = s.fb := rfl
@[simp] theorem State.receive_keys : s.receive.keys = s.nextInput.keys := rfl
@[simp] theorem State.receive_deadline : s.receive.deadline = s.deadline := rfl
@[simp] theorem State.receive_wait : s.receive.wait = s.wait := rfl
@[simp] theorem State.receive_fault : s.receive.fault = s.fault := rfl
@[simp] theorem State.receive_cfg : s.receive.cfg = s.cfg := rfl
@[simp] theorem State.receive_now : s.receive.now = s.nextInput.now := rfl
@[simp] theorem State.receive_rnd : s.receive.rnd = s.nextInput.rnd := rfl
@[simp] theorem State.receive_inputs : s.receive.inputs = s.inputs.tail := rfl
@[simp] theorem State.receive_stepNo : s.receive.stepNo = s.stepNo + 1 := rfl
@[simp] theorem State.receive_out : s.receive.out = StepOutput.idle := rfl

/-! ## timerSync -/

@[simp] theorem State.timerSync_mem (n : Nat) : (s.timerSync n).mem = s.mem := rfl
@[simp] theorem State.timerSync_v (n : Nat) : (s.timerSync n).v = s.v := rfl
@[simp] theorem State.timerSync_i (n : Nat) : (s.timerSync n).i = s.i := rfl
@[simp] theorem State.timerSync_pc (n : Nat) : (s.timerSync n).pc = s.pc := rfl
@[simp] theorem State.timerSync_stack (n : Nat) : (s.timerSync n).stack = s.stack := rfl
@[simp] theorem State.timerSync_sp (n : Nat) : (s.timerSync n).sp = s.sp := rfl
@[simp] theorem State.timerSync_dt (n : Nat) : (s.timerSync n).dt = (s.timersAt n).dt := rfl
@[simp] theorem State.timerSync_st (n : Nat) : (s.timerSync n).st = (s.timersAt n).st := rfl
@[simp] theorem State.timerSync_fb (n : Nat) : (s.timerSync n).fb = s.fb := rfl
@[simp] theorem State.timerSync_keys (n : Nat) : (s.timerSync n).keys = s.keys := rfl
@[simp] theorem State.timerSync_deadline (n : Nat) : (s.timerSync n).deadline = (s.timersAt n).deadline := rfl
@[simp] theorem State.timerSync_wait (n : Nat) : (s.timerSync n).wait = s.wait := rfl
@[simp] theorem State.timerSync_fault (n : Nat) : (s.timerSync n).fault = s.fault := rfl
@[simp] theorem State.timerSync_cfg (n : Nat) : (s.timerSync n).cfg = s.cfg := rfl
@[simp] theorem State.timerSync_now (n : Nat) : (s.timerSync n).now = s.now := rfl
@[simp] theorem State.timerSync_rnd (n : Nat) : (s.timerSync n).rnd = s.rnd := rfl
@[simp] theorem State.timerSync_inputs (n : Nat) : (s.timerSync n).inputs = s.inputs := rfl
@[simp] theorem State.timerSync_stepNo (n : Nat) : (s.timerSync n).stepNo = s.stepNo := rfl
@[simp] theorem State.timerSync_out (n : Nat) : (s.timerSync n).out = { s.out with beep := (s.timersAt n).beep } := rfl

/-! ## Operations with a case split: what they leave alone -/

@[simp] theorem State.skipIf_mem (c : Bool) : (s.skipIf c).mem = s.mem := by cases c <;> rfl
@[simp] theorem State.skipIf_v (c : Bool) : (s.skipIf c).v = s.v := by cases c <;> rfl
@[simp] theorem State.skipIf_i (c : Bool) : (s.skipIf c).i = s.i := by cases c <;> rfl
@[simp] theorem State.skipIf_stack (c : Bool) : (s.skipIf c).stack = s.stack := by cases c <;> rfl
@[simp] theorem State.skipIf_sp (c : Bool) : (s.skipIf c).sp = s.sp := by cases c <;> rfl
@[simp] theorem State.skipIf_dt (c : Bool) : (s.skipIf c).dt = s.dt := by cases c <;> rfl
@[simp] theorem State.skipIf_st (c : Bool) : (s.skipIf c).st = s.st := by cases c <;> rfl
@[simp] theorem State.skipIf_fb (c : Bool) : (s.skipIf c).fb = s.fb := by cases c <;> rfl
@[simp] theorem State.skipIf_keys (c : Bool) : (s.skipIf c).keys = s.keys := by cases c <;> rfl
@[simp] theorem State.skipIf_deadline (c : Bool) : (s.skipIf c).deadline = s.deadline := by cases c <;> rfl
@[simp] theorem State.skipIf_wait (c : Bool) : (s.skipIf c).wait = s.wait := by cases c <;> rfl
@[simp] theorem State.skipIf_fault (c : Bool) : (s.skipIf c).fault = s.fault := by cases c <;> rfl
@[simp] theorem State.skipIf_cfg (c : Bool) : (s.skipIf c).cfg = s.cfg := by cases c <;> rfl
@[simp] theorem State.skipIf_now (c : Bool) : (s.skipIf c).now = s.now := by cases c <;> rfl
@[simp] theorem State.skipIf_rnd (c : Bool) : (s.skipIf c).rnd = s.rnd := by cases c <;> rfl
@[simp] theorem State.skipIf_inputs (c : Bool) : (s.skipIf c).inputs = s.inputs := by cases c <;> rfl
@[simp] theorem State.skipIf_stepNo (c : Bool) : (s.skipIf c).stepNo = s.stepNo := by cases c <;> rfl
@[simp] theorem State.skipIf_out (c : Bool) : (s.skipIf c).out = s.out := by cases c <;> rfl
@[simp] theorem State.skipIf_pc (c : Bool) : (s.skipIf c).pc = if c then s.pc + 2 else s.pc := by cases c <;> rfl

@[simp] theorem State.setPixel_mem (c r : Nat) (b : Bool) : (s.setPixel c r b).mem = s.mem := by
  unfold State.setPixel; split <;> rfl
@[simp] theorem State.setPixel_v (c r : Nat) (b : Bool) : (s.setPixel c r b).v = s.v := by
  unfold State.setPixel; split <;> rfl
@[simp] theorem State.setPixel_i (c r : Nat) (b : Bool) : (s.setPixel c r b).i = s.i := by
  unfold State.setPixel; split <;> rfl
@[simp] theorem State.setPixel_pc (c r : Nat) (b : Bool) : (s.setPixel c r b).pc = s.pc := by
  unfold State.setPixel; split <;> rfl
@[simp] theorem State.setPixel_stack (c r : Nat) (b : Bool) : (s.setPixel c r b).stack = s.stack := by
  unfold State.setPixel; split <;> rfl
@[simp] theorem State.setPixel_sp (c r : Nat) (b : Bool) : (s.setPixel c r b).sp = s.sp := by
  unfold State.setPixel; split <;> rfl
@[simp] theorem State.setPixel_dt (c r : Nat) (b : Bool) : (s.setPixel c r b).dt = s.dt := by
  unfold State.setPixel; split <;> rfl
@[simp] theorem State.setPixel_st (c r : Nat) (b : Bool) : (s.setPixel c r b).st = s.st := by
  unfold State.setPixel; split <;> rfl
@[simp] theorem State.setPixel_keys (c r : Nat) (b : Bool) : (s.setPixel c r b).keys = s.keys := by
  unfold State.setPixel; split <;> rfl
@[simp] theorem State.setPixel_deadline (c r : Nat) (b : Bool) : (s.setPixel c r b).deadline = s.deadline := by
  unfold State.setPixel; split <;> rfl
@[simp] theorem State.setPixel_wait (c r : Nat) (b : Bool) : (s.setPixel c r b).wait = s.wait := by
  unfold State.setPixel; split <;> rfl
@[simp] theorem State.setPixel_fault (c r : Nat) (b : Bool) : (s.setPixel c r b).fault = s.fault := by
  unfold State.setPixel; split <;> rfl
@[simp] theorem State.setPixel_cfg (c r : Nat) (b : Bool) : (s.setPixel c r b).cfg = s.cfg := by
  unfold State.setPixel; split <;> rfl
@[simp] theorem State.setPixel_now (c r : Nat) (b : Bool) : (s.setPixel c r b).now = s.now := by
  unfold State.setPixel; split <;> rfl
@[simp] theorem State.setPixel_rnd (c r : Nat) (b : Bool) : (s.setPixel c r b).rnd = s.rnd := by
  unfold State.setPixel; split <;> rfl
@[simp] theorem State.setPixel_inputs (c r : Nat) (b : Bool) : (s.setPixel c r b).inputs = s.inputs := by
  unfold State.setPixel; split <;> rfl
@[simp] theorem State.setPixel_stepNo (c r : Nat) (b : Bool) : (s.setPixel c r b).stepNo = s.stepNo := by
  unfold State.setPixel; split <;> rfl
@[simp] theorem State.setPixel_out (c r : Nat) (b : Bool) : (s.setPixel c r b).out = s.out := by
  unfold State.setPixel; split <;> rfl

@[simp] theorem State.storeBytes_v (a : Nat) (bs : List Byte) : (s.storeBytes a bs).v = s.v := by
  induction bs generalizing s a with
  | nil => rfl
  | cons b bs ih => exact ih (s.writeByte a b) (a + 1)
@[simp] theorem State.storeBytes_i (a : Nat) (bs : List Byte) : (s.storeBytes a bs).i = s.i := by
  induction bs generalizing s a with
  | nil => rfl
  | cons b bs ih => exact ih (s.writeByte a b) (a + 1)
@[simp] theorem State.storeBytes_pc (a : Nat) (bs : List Byte) : (s.storeBytes a bs).pc = s.pc := by
  induction bs generalizing s a with
  | nil => rfl
  | cons b bs ih => exact ih (s.writeByte a b) (a + 1)
@[simp] theorem State.storeBytes_stack (a : Nat) (bs : List Byte) : (s.storeBytes a bs).stack = s.stack := by
  induction bs generalizing s a with
  | nil => rfl
  | cons b bs ih => exact ih (s.writeByte a b) (a + 1)
@[simp] theorem State.storeBytes_sp (a : Nat) (bs : List Byte) : (s.storeBytes a bs).sp = s.sp := by
  induction bs generalizing s a with
  | nil => rfl
  | cons b bs ih => exact ih (s.writeByte a b) (a + 1)
@[simp] theorem State.storeBytes_dt (a : Nat) (bs : List Byte) : (s.storeBytes a bs).dt = s.dt := by
  induction bs generalizing s a with
  | nil => rfl
  | cons b bs ih => exact ih (s.writeByte a b) (a + 1)
@[simp] theorem State.storeBytes_st (a : Nat) (bs : List Byte) : (s.storeBytes a bs).st = s.st := by
  induction bs generalizing s a with
  | nil => rfl
  | cons b bs ih => exact ih (s.writeByte a b) (a + 1)
@[simp] theorem State.storeBytes_fb (a : Nat) (bs : List Byte) : (s.storeBytes a bs).fb = s.fb := by
  induction bs generalizing s a with
  | nil => rfl
  | cons b bs ih => exact ih (s.writeByte a b) (a + 1)
@[simp] theorem State.storeBytes_keys (a : Nat) (bs : List Byte) : (s.storeBytes a bs).keys = s.keys := by
  induction bs generalizing s a with
  | nil => rfl
  | cons b bs ih => exact ih (s.writeByte a b) (a + 1)
@[simp] theorem State.storeBytes_deadline (a : Nat) (bs : List Byte) : (s.storeBytes a bs).deadline = s.deadline := by
  induction bs generalizing s a with
  | nil => rfl
  | cons b bs ih => exact ih (s.writeByte a b) (a + 1)
@[simp] theorem State.storeBytes_wait (a : Nat) (bs : List Byte) : (s.storeBytes a bs).wait = s.wait := by
  induction bs generalizing s a with
  | nil => rfl
  | cons b bs ih => exact ih (s.writeByte a b) (a + 1)
@[simp] theorem State.storeBytes_fault (a : Nat) (bs : List Byte) : (s.storeBytes a bs).fault = s.fault := by
  induction bs generalizing s a with
  | nil => rfl
  | cons b bs ih => exact ih (s.writeByte a b) (a + 1)
@[simp] theorem State.storeBytes_cfg (a : Nat) (bs : List Byte) : (s.storeBytes a bs).cfg = s.cfg := by
  induction bs generalizing s a with
  | nil => rfl
  | cons b bs ih => exact ih (s.writeByte a b) (a + 1)
@[simp] theorem State.storeBytes_now (a : Nat) (bs : List Byte) : (s.storeBytes a bs).now = s.now := by
  induction bs generalizing s a with
  | nil => rfl
  | cons b bs ih => exact ih (s.writeByte a b) (a + 1)
@[simp] theorem State.storeBytes_rnd (a : Nat) (bs : List Byte) : (s.storeBytes a bs).rnd = s.rnd := by
  induction bs generalizing s a with
  | nil => rfl
  | cons b bs ih => exact ih (s.writeByte a b) (a + 1)
@[simp] theorem State.storeBytes_inputs (a : Nat) (bs : List Byte) : (s.storeBytes a bs).inputs = s.inputs := by
  induction bs generalizing s a with
  | nil => rfl
  | cons b bs ih => exact ih (s.writeByte a b) (a + 1)
@[simp] theorem State.storeBytes_stepNo (a : Nat) (bs : List Byte) : (s.storeBytes a bs).stepNo = s.stepNo := by
  induction bs generalizing s a with
  | nil => rfl
  | cons b bs ih => exact ih (s.writeByte a b) (a + 1)
@[simp] theorem State.storeBytes_out (a : Nat) (bs : List Byte) : (s.storeBytes a bs).out = s.out := by
  induction bs generalizing s a with
  | nil => rfl
  | cons b bs ih => exact ih (s.writeByte a b) (a + 1)

@[simp] theorem State.finish_mem : s.finish.mem = s.mem := by
  unfold State.finish; split <;> rfl
@[simp] theorem State.finish_v : s.finish.v = s.v := by
  unfold State.finish; split <;> rfl
@[simp] theorem State.finish_i : s.finish.i = s.i := by
  unfold State.finish; split <;> rfl
@[simp] theorem State.finish_pc : s.finish.pc = s.pc := by
  unfold State.finish; split <;> rfl
@[simp] theorem State.finish_stack : s.finish.stack = s.stack := by
  unfold State.finish; split <;> rfl
@[simp] theorem State.finish_sp : s.finish.sp = s.sp := by
  unfold State.finish; split <;> rfl
@[simp] theorem State.finish_fb : s.finish.fb = s.fb := by
  unfold State.finish; split <;> rfl
@[simp] theorem State.finish_keys : s.finish.keys = s.keys := by
  unfold State.finish; split <;> rfl
@[simp] theorem State.finish_wait : s.finish.wait = s.wait := by
  unfold State.finish; split <;> rfl
@[simp] theorem State.finish_fault : s.finish.fault = s.fault := by
  unfold State.finish; split <;> rfl
@[simp] theorem State.finish_cfg : s.finish.cfg = s.cfg := by
  unfold State.finish; split <;> rfl
@[simp] theorem State.finish_now : s.finish.now = s.now := by
  unfold State.finish; split <;> rfl
@[simp] theorem State.finish_rnd : s.finish.rnd = s.rnd := by
  unfold State.finish; split <;> rfl
@[simp] theorem State.finish_inputs : s.finish.inputs = s.inputs := by
  unfold State.finish; split <;> rfl
@[simp] theorem State.finish_stepNo : s.finish.stepNo = s.stepNo := by
  unfold State.finish; split <;> rfl

@[simp] theorem State.pollKeys_mem (kw : KeyWait) : (s.pollKeys kw).mem = s.mem := by
  unfold State.pollKeys; split <;> rfl
@[simp] theorem State.pollKeys_i (kw : KeyWait) : (s.pollKeys kw).i = s.i := by
  unfold State.pollKeys; split <;> rfl
@[simp] theorem State.pollKeys_pc (kw : KeyWait) : (s.pollKeys kw).pc = s.pc := by
  unfold State.pollKeys; split <;> rfl
@[simp] theorem State.pollKeys_stack (kw : KeyWait) : (s.pollKeys kw).stack = s.stack := by
  unfold State.pollKeys; split <;> rfl
@[simp] theorem State.pollKeys_sp (kw : KeyWait) : (s.pollKeys kw).sp = s.sp := by
  unfold State.pollKeys; split <;> rfl
@[simp] theorem State.pollKeys_dt (kw : KeyWait) : (s.pollKeys kw).dt = s.dt := by
  unfold State.pollKeys; split <;> rfl
@[simp] theorem State.pollKeys_st (kw : KeyWait) : (s.pollKeys kw).st = s.st := by
  unfold State.pollKeys; split <;> rfl
@[simp] theorem State.pollKeys_fb (kw : KeyWait) : (s.pollKeys kw).fb = s.fb := by
  unfold State.pollKeys; split <;> rfl
@[simp] theorem State.pollKeys_keys (kw : KeyWait) : (s.pollKeys kw).keys = s.keys := by
  unfold State.pollKeys; split <;> rfl
@[simp] theorem State.pollKeys_deadline (kw : KeyWait) : (s.pollKeys kw).deadline = s.deadline := by
  unfold State.pollKeys; split <;> rfl
@[simp] theorem State.pollKeys_fault (kw : KeyWait) : (s.pollKeys kw).fault = s.fault := by
  unfold State.pollKeys; split <;> rfl
@[simp] theorem State.pollKeys_cfg (kw : KeyWait) : (s.pollKeys kw).cfg = s.cfg := by
  unfold State.pollKeys; split <;> rfl
@[simp] theorem State.pollKeys_now (kw : KeyWait) : (s.pollKeys kw).now = s.now := by
  unfold State.pollKeys; split <;> rfl
@[simp] theorem State.pollKeys_rnd (kw : KeyWait) : (s.pollKeys kw).rnd = s.rnd := by
  unfold State.pollKeys; split <;> rfl
@[simp] theorem State.pollKeys_inputs (kw : KeyWait) : (s.pollKeys kw).inputs = s.inputs := by
  unfold State.pollKeys; split <;> rfl
@[simp] theorem State.pollKeys_stepNo (kw : KeyWait) : (s.pollKeys kw).stepNo = s.stepNo := by
  unfold State.pollKeys; split <;> rfl
@[simp] theorem State.pollKeys_out (kw : KeyWait) : (s.pollKeys kw).out = s.out := by
  unfold State.pollKeys; split <;> rfl

@[simp] theorem State.loadRegs_mem (a n : Nat) : (s.loadRegs a n).mem = s.mem := by
  induction n with
  | zero => rfl
  | succ n ih => exact ih
@[simp] theorem State.loadRegs_i (a n : Nat) : (s.loadRegs a n).i = s.i := by
  induction n with
  | zero => rfl
  | succ n ih => exact ih
@[simp] theorem State.loadRegs_pc (a n : Nat) : (s.loadRegs a n).pc = s.pc := by
  induction n with
  | zero => rfl
  | succ n ih => exact ih
@[simp] theorem State.loadRegs_stack (a n : Nat) : (s.loadRegs a n).stack = s.stack := by
  induction n with
  | zero => rfl
  | succ n ih => exact ih
@[simp] theorem State.loadRegs_sp (a n : Nat) : (s.loadRegs a n).sp = s.sp := by
  induction n with
  | zero => rfl
  | succ n ih => exact ih
@[simp] theorem State.loadRegs_dt (a n : Nat) : (s.loadRegs a n).dt = s.dt := by
  induction n with
  | zero => rfl
  | succ n ih => exact ih
@[simp] theorem State.loadRegs_st (a n : Nat) : (s.loadRegs a n).st = s.st := by
  induction n with
  | zero => rfl
  | succ n ih => exact ih
@[simp] theorem State.loadRegs_fb (a n : Nat) : (s.loadRegs a n).fb = s.fb := by
  induction n with
  | zero => rfl
  | succ n ih => exact ih
@[simp] theorem State.loadRegs_keys (a n : Nat) : (s.loadRegs a n).keys = s.keys := by
  induction n with
  | zero => rfl
  | succ n ih => exact ih
@[simp] theorem State.loadRegs_deadline (a n : Nat) : (s.loadRegs a n).deadline = s.deadline := by
  induction n with
  | zero => rfl
  | succ n ih => exact ih
@[simp] theorem State.loadRegs_wait (a n : Nat) : (s.loadRegs a n).wait = s.wait := by
  induction n with
  | zero => rfl
  | succ n ih => exact ih
@[simp] theorem State.loadRegs_fault (a n : Nat) : (s.loadRegs a n).fault = s.fault := by
  induction n with
  | zero => rfl
  | succ n ih => exact ih
@[simp] theorem State.loadRegs_cfg (a n : Nat) : (s.loadRegs a n).cfg = s.cfg := by
  induction n with
  | zero => rfl
  | succ n ih => exact ih
@[simp] theorem State.loadRegs_now (a n : Nat) : (s.loadRegs a n).now = s.now := by
  induction n with
  | zero => rfl
  | succ n ih => exact ih
@[simp] theorem State.loadRegs_rnd (a n : Nat) : (s.loadRegs a n).rnd = s.rnd := by
  induction n with
  | zero => rfl
  | succ n ih => exact ih
@[simp] theorem State.loadRegs_inputs (a n : Nat) : (s.loadRegs a n).inputs = s.inputs := by
  induction n with
  | zero => rfl
  | succ n ih => exact ih
@[simp] theorem State.loadRegs_stepNo (a n : Nat) : (s.loadRegs a n).stepNo = s.stepNo := by
  induction n with
  | zero => rfl
  | succ n ih => exact ih
@[simp] theorem State.loadRegs_out (a n : Nat) : (s.loadRegs a n).out = s.out := by
  induction n with
  | zero => rfl
  | succ n ih => exact ih

/-! ## Registers through State.reg -/

/-- A register read after a register write (R31). -/
theorem State.reg_setReg (x r : Reg) (b : Byte) : (s.setReg x b).reg r = if r = x then b else s.reg r := by
  simp only [State.reg, State.setReg_v, Vector.getElem_set]
  split <;> split <;> simp_all [Fin.ext_iff]

@[simp] theorem State.reg_setReg_same (x : Reg) (b : Byte) : (s.setReg x b).reg x = b := by
  simp [State.reg_setReg]

theorem State.reg_setReg_other (x r : Reg) (b : Byte) (h : r ≠ x) : (s.setReg x b).reg r = s.reg r := by
  simp [State.reg_setReg, h]

/-- An operation that leaves the register file alone leaves every register alone. -/
theorem State.reg_of_v_eq (t : State) (h : t.v = s.v) (r : Reg) : t.reg r = s.reg r := by
  simp only [State.reg, h]

@[simp] theorem State.reg_advance (r : Reg) : s.advance.reg r = s.reg r := rfl
@[simp] theorem State.reg_setI (w : Word) (r : Reg) : (s.setI w).reg r = s.reg r := rfl
@[simp] theorem State.reg_jump (w : Word) (r : Reg) : (s.jump w).reg r = s.reg r := rfl
@[simp] theorem State.reg_receive (r : Reg) : s.receive.reg r = s.reg r := rfl
@[simp] theorem State.reg_latch (f : FaultRecord) (r : Reg) : (s.latch f).reg r = s.reg r := rfl
@[simp] theorem State.reg_reportChanged (r : Reg) : s.reportChanged.reg r = s.reg r := rfl
@[simp] theorem State.reg_skipIf (c : Bool) (r : Reg) : (s.skipIf c).reg r = s.reg r :=
  State.reg_of_v_eq _ _ (s.skipIf_v c) r
@[simp] theorem State.reg_finish (r : Reg) : s.finish.reg r = s.reg r :=
  State.reg_of_v_eq _ _ s.finish_v r
@[simp] theorem State.reg_storeBytes (a : Nat) (bs : List Byte) (r : Reg) : (s.storeBytes a bs).reg r = s.reg r :=
  State.reg_of_v_eq _ _ (s.storeBytes_v a bs) r

/-- The first n loads: registers below n hold the bytes from a, the others are unchanged (R235). -/
theorem State.reg_loadRegs (a n : Nat) (r : Reg) (hn : n ≤ 16) :
    (s.loadRegs a n).reg r = if r.val < n then s.readByte (a + r.val) else s.reg r := by
  induction n with
  | zero => simp [State.loadRegs]
  | succ n ih =>
    have hv : (Fin.ofNat 16 n).val = n := Nat.mod_eq_of_lt (by omega)
    simp only [State.loadRegs, State.reg_setReg, ih (by omega), Fin.ext_iff, hv]
    by_cases h : r.val = n
    · simp [h]
    · have : r.val < n + 1 ↔ r.val < n := by omega
      simp [h, this]

/-! ## Memory through State.readByte -/

/-- An operation that leaves memory and the parameters alone leaves every byte alone. -/
theorem State.readByte_of_mem_eq (t : State) (hm : t.mem = s.mem) (hc : t.cfg = s.cfg) (a : Nat) :
    t.readByte a = s.readByte a := by
  simp only [State.readByte, hm, hc]

@[simp] theorem State.readByte_advance (a : Nat) : s.advance.readByte a = s.readByte a := rfl
@[simp] theorem State.readByte_receive (a : Nat) : s.receive.readByte a = s.readByte a := rfl
@[simp] theorem State.readByte_latch (r : FaultRecord) (a : Nat) : (s.latch r).readByte a = s.readByte a := rfl
@[simp] theorem State.readByte_setReg (x : Reg) (b : Byte) (a : Nat) :
    (s.setReg x b).readByte a = s.readByte a := rfl
@[simp] theorem State.readByte_loadRegs (k n a : Nat) : (s.loadRegs k n).readByte a = s.readByte a :=
  State.readByte_of_mem_eq _ _ (s.loadRegs_mem k n) (s.loadRegs_cfg k n) a
@[simp] theorem State.readByte_setPixel (c r : Nat) (b : Bool) (a : Nat) :
    (s.setPixel c r b).readByte a = s.readByte a :=
  State.readByte_of_mem_eq _ _ (s.setPixel_mem c r b) (s.setPixel_cfg c r b) a
@[simp] theorem State.readByte_finish (a : Nat) : s.finish.readByte a = s.readByte a :=
  State.readByte_of_mem_eq _ _ s.finish_mem s.finish_cfg a

end Sys2Proof.Machine
end

