-- ==== Sys2Proof/Laws/Memory.lean ====
section
/-!
SUPPORT. Memory: read after write, the canonical form kept by every operation, and block stores.
-/

namespace Sys2Proof.Machine

/-! ## One write -/

/-- A write leaves every other address alone; no canonical form is needed. -/
theorem Memory.read_write_other (base : Nat → Byte) (m : Memory) (a a' : Nat) (b : Byte) (h : a' ≠ a) :
    Memory.read base (Memory.write base m a b) a' = Memory.read base m a' := by
  induction m with
  | nil =>
    simp only [Memory.write]
    split
    · rfl
    · simp [Memory.read, Ne.symm h]
  | cons e rest ih =>
    obtain ⟨k, c⟩ := e
    simp only [Memory.write]
    split
    · split
      · rfl
      · simp [Memory.read, Ne.symm h]
    · split
      · rename_i hk
        split <;> simp [Memory.read, ← hk, Ne.symm h]
      · simp only [Memory.read, ih]

/-- Below the first listed address, a memory reads as its base. -/
theorem Memory.read_below (base : Nat → Byte) (m : Memory) (lo a : Nat) (h : Memory.wfFrom base lo m = true)
    (ha : a < lo) : Memory.read base m a = base a := by
  induction m generalizing lo with
  | nil => rfl
  | cons e rest ih =>
    obtain ⟨k, c⟩ := e
    simp only [Memory.wfFrom, Bool.and_eq_true, decide_eq_true_eq] at h
    have hne : k ≠ a := by omega
    simp only [Memory.read, hne, if_false]
    exact ih (k + 1) h.2 (by omega)

/-- A write is read back (R83). -/
theorem Memory.read_write_same (base : Nat → Byte) (m : Memory) (lo a : Nat) (b : Byte)
    (h : Memory.wfFrom base lo m = true) : Memory.read base (Memory.write base m a b) a = b := by
  induction m generalizing lo with
  | nil =>
    simp only [Memory.write]
    split
    · simp_all [Memory.read]
    · simp [Memory.read]
  | cons e rest ih =>
    obtain ⟨k, c⟩ := e
    simp only [Memory.wfFrom, Bool.and_eq_true, decide_eq_true_eq] at h
    simp only [Memory.write]
    split
    · split
      · rename_i hlt hb
        have hne : k ≠ a := by omega
        simp only [Memory.read, hne, if_false, hb]
        exact Memory.read_below base rest (k + 1) a h.2 (by omega)
      · simp [Memory.read]
    · split
      · rename_i hk
        split
        · rename_i hb
          rw [hb]
          exact Memory.read_below base rest (k + 1) a h.2 (by omega)
        · simp [Memory.read]
      · rename_i hge hne
        have hka : k ≠ a := fun e => hne e.symm
        simp only [Memory.read, hka, if_false]
        exact ih (k + 1) h.2

/-- A write into the address space keeps the canonical form. -/
theorem Memory.write_wfFrom (base : Nat → Byte) (m : Memory) (lo a : Nat) (b : Byte)
    (h : Memory.wfFrom base lo m = true) (hlo : lo ≤ a) (ha : a < memorySize) :
    Memory.wfFrom base lo (Memory.write base m a b) = true := by
  induction m generalizing lo with
  | nil =>
    simp only [Memory.write]
    split <;> simp_all [Memory.wfFrom]
  | cons e rest ih =>
    obtain ⟨k, c⟩ := e
    simp only [Memory.wfFrom, Bool.and_eq_true, decide_eq_true_eq] at h
    obtain ⟨⟨⟨h1, h2⟩, h3⟩, h4⟩ := h
    simp only [Memory.write]
    split
    · split
      · simp [Memory.wfFrom, *]
      · rename_i hlt hb
        simp [Memory.wfFrom, h2, h3, h4, hlo, ha, hb]
        omega
    · split
      · rename_i hk
        split
        · cases rest with
          | nil => rfl
          | cons e' rest' =>
            obtain ⟨k', c'⟩ := e'
            simp only [Memory.wfFrom, Bool.and_eq_true, decide_eq_true_eq] at h4 ⊢
            exact ⟨⟨⟨by omega, h4.1.1.2⟩, h4.1.2⟩, h4.2⟩
        · rename_i hb
          subst hk
          simp [Memory.wfFrom, hlo, ha, hb, h4]
      · simp only [Memory.wfFrom, Bool.and_eq_true, decide_eq_true_eq]
        exact ⟨⟨⟨h1, h2⟩, h3⟩, ih (k + 1) h4 (by omega)⟩

/-! ## State.writeByte and State.storeBytes -/

theorem State.writeByte_memWf (s : State) (a : Nat) (b : Byte) (h : s.memWf) (ha : a < memorySize) :
    (s.writeByte a b).memWf :=
  Memory.write_wfFrom _ _ 0 a b h (Nat.zero_le a) ha

theorem State.readByte_writeByte_other (s : State) (a a' : Nat) (b : Byte) (h : a' ≠ a) :
    (s.writeByte a b).readByte a' = s.readByte a' :=
  Memory.read_write_other _ _ a a' b h

theorem State.readByte_writeByte_same (s : State) (a : Nat) (b : Byte) (h : s.memWf) :
    (s.writeByte a b).readByte a = b :=
  Memory.read_write_same _ _ 0 a b h

/-- A block store inside the address space keeps the canonical form. -/
theorem State.storeBytes_memWf (s : State) (a : Nat) (bs : List Byte) (h : s.memWf)
    (ha : a + bs.length ≤ memorySize) : (s.storeBytes a bs).memWf := by
  induction bs generalizing s a with
  | nil => exact h
  | cons b bs ih =>
    simp only [List.length_cons] at ha
    exact ih _ _ (s.writeByte_memWf a b h (by omega)) (by omega)

/-- A block store leaves every address outside its range alone. -/
theorem State.readByte_storeBytes_outside (s : State) (a : Nat) (bs : List Byte) (a' : Nat)
    (h : ¬ (a ≤ a' ∧ a' < a + bs.length)) : (s.storeBytes a bs).readByte a' = s.readByte a' := by
  induction bs generalizing s a with
  | nil => rfl
  | cons b bs ih =>
    simp only [List.length_cons] at h
    simp only [State.storeBytes]
    rw [ih _ _ (by omega), State.readByte_writeByte_other _ _ _ _ (by omega)]

/-- A block store puts its k-th byte at address a + k. -/
theorem State.readByte_storeBytes_inside (s : State) (a : Nat) (bs : List Byte) (k : Nat) (hk : k < bs.length)
    (h : s.memWf) (ha : a + bs.length ≤ memorySize) : (s.storeBytes a bs).readByte (a + k) = bs[k] := by
  induction bs generalizing s a k with
  | nil => simp at hk
  | cons b bs ih =>
    simp only [List.length_cons] at hk ha
    simp only [State.storeBytes]
    cases k with
    | zero =>
      rw [State.readByte_storeBytes_outside _ _ _ _ (by omega)]
      exact s.readByte_writeByte_same a b h
    | succ k =>
      have := ih (s.writeByte a b) (a + 1) k (by omega) (s.writeByte_memWf a b h (by omega)) (by omega)
      simpa [Nat.add_assoc, Nat.add_comm 1 k] using this

/-- Reset memory lists nothing and is canonical. -/
theorem State.resetAt_memWf (c : Config) (n : Nat) : (State.resetAt c n).memWf := rfl

/-! ## The checks of R78 and R79 -/

/-- When the range check passes: nothing is accessed, or the last byte lies in the address space (R78). -/
theorem rangeError_eq_none (first count : Nat) :
    rangeError first count = none ↔ count = 0 ∨ first + count ≤ memorySize := by
  simp only [rangeError]
  split <;> simp <;> omega

/-- When it fails: the lowest address of 0x1000 or above (R78). -/
theorem rangeError_eq_some (first count a : Nat) :
    rangeError first count = some a ↔ 0 < count ∧ memorySize < first + count ∧ a = max first memorySize := by
  simp only [rangeError]
  split
  · simp; omega
  · simp; omega

/-- When a load may be made (R78). -/
theorem loadCheck_eq_none (first count : Nat) :
    loadCheck first count = none ↔ count = 0 ∨ first + count ≤ memorySize := by
  simp [loadCheck, rangeError_eq_none]

/-- When a store may be made (R78, R79). -/
theorem storeCheck_eq_none (c : Config) (first count : Nat) (h : 0 < count) :
    storeCheck c first count = none ↔
      first + count ≤ memorySize ∧ (c.fontWriteProtect = true → fontEnd ≤ first) := by
  simp only [storeCheck]
  split
  · rename_i a ha
    rw [rangeError_eq_some] at ha
    simp; omega
  · rename_i hn
    rw [rangeError_eq_none] at hn
    cases hp : c.fontWriteProtect <;> simp <;> omega

@[simp] theorem bcdDigits_length (b : Byte) : (bcdDigits b).length = 3 := rfl

@[simp] theorem State.regsUpTo_length (s : State) (x : Reg) : (s.regsUpTo x).length = x.val + 1 := by
  simp [State.regsUpTo]

/-- The k-th stored register is Vk (R234). -/
theorem State.regsUpTo_getElem (s : State) (x r : Reg) (h : r.val < (s.regsUpTo x).length) :
    (s.regsUpTo x)[r.val] = s.reg r := by
  simp [State.regsUpTo, State.reg]

end Sys2Proof.Machine
end

