-- ==== Sys2Proof/Laws/Ops.lean ====
section
/-!
SUPPORT. What each shared operation of the meanings does, said once: flags, key numbers, checks, and the frames of the
register, index and memory updates.
-/

namespace Sys2Proof.Machine

/-! ## Flags (R32) -/

/-- A flag is 1 when it holds and 0 when not. -/
theorem flagByte_toNat (f : Bool) : (flagByte f).toNat = if f then 1 else 0 := by
  cases f <;> rfl

/-- A flag write is read back from VF, whatever stood there. -/
@[simp] theorem State.reg_setFlag_VF (s : State) (f : Bool) : (s.setFlag f).reg VF = flagByte f := by
  simp [State.setFlag]

/-- A flag write leaves every register but VF alone. -/
theorem State.reg_setFlag_other (s : State) (f : Bool) (r : Reg) (h : r ≠ VF) : (s.setFlag f).reg r = s.reg r :=
  State.reg_setReg_other s VF r _ h

/-- The bit 8XY6 shifts out, as a natural (R198). -/
theorem lowBit_toNat (b : Byte) : (lowBit b).toNat = b.toNat % 2 := by
  simp [lowBit, Nat.and_one_is_mod]

/-- The bit 8XYE shifts out, as a natural (R200). -/
theorem highBit_toNat (b : Byte) : (highBit b).toNat = b.toNat / 128 := by
  revert b; decide

/-- A skip after the fetch increment: PC + 4 when the condition holds, PC + 2 when not (R169). -/
theorem State.skip_pc (s : State) (c : Bool) : (s.advance.skipIf c).pc = if c then s.pc + 4 else s.pc + 2 := by
  cases c
  · rfl
  · show s.pc + 2#16 + 2#16 = s.pc + 4#16
    rw [BitVec.add_assoc]; rfl

/-! ## Keys (R41, R290) -/

/-- A value of at most 0xF names the key of that number. -/
theorem keyIndex_of_le (b : Byte) (h : b.toNat ≤ 0xF) : keyIndex b = some b.toNat := if_pos h

/-- A larger value names none. -/
theorem keyIndex_of_gt (b : Byte) (h : b.toNat > 0xF) : keyIndex b = none := if_neg (by omega)

/-- Bit k of the edges: the key is down now and was up (R297). -/
theorem keyEdges_bit (now prev : Word) (k : Nat) (hk : k < 16) :
    (keyEdges now prev).getLsbD k = true ↔ WentDown now prev k := by
  simp [keyEdges, WentDown, hk]

/-- The search over the top k bits: what it finds is set with no set bit before it, and it fails only on none. -/
theorem lowestFrom_spec (w : Word) (k : Nat) (hk : k ≤ 16) :
    (∀ j, lowestFrom w k = some j → 16 - k ≤ j ∧ j < 16 ∧ w.getLsbD j = true ∧
      ∀ i, 16 - k ≤ i → i < j → w.getLsbD i = false) ∧
    (lowestFrom w k = none → ∀ i, 16 - k ≤ i → i < 16 → w.getLsbD i = false) := by
  induction k with
  | zero =>
    refine ⟨fun j h => by simp [lowestFrom] at h, fun _ i h h' => by omega⟩
  | succ k ih =>
    obtain ⟨i1, i2⟩ := ih (by omega)
    simp only [lowestFrom]
    split
    · rename_i h
      refine ⟨?_, by simp⟩
      rintro j ⟨⟩
      exact ⟨by omega, by omega, h, fun i a b => by omega⟩
    · rename_i h
      refine ⟨fun j hj => ?_, fun hn i a b => ?_⟩
      · obtain ⟨a, b, c, d⟩ := i1 j hj
        refine ⟨by omega, b, c, fun i e f => ?_⟩
        by_cases hh : i = 15 - k
        · subst hh; simpa using h
        · exact d i (by omega) f
      · by_cases hh : i = 15 - k
        · subst hh; simpa using h
        · exact i2 hn i (by omega) b

/-! ## The checks of R78 and R79 that fail -/

/-- A load whose range leaves the address space (R78). -/
theorem loadCheck_eq_some (first count : Nat) (hc : 0 < count) (h : memorySize < first + count) :
    loadCheck first count = some (.addressError, max first memorySize) := by
  simp only [loadCheck, (rangeError_eq_some first count _).2 ⟨hc, h, rfl⟩, Option.map_some]

/-- A store whose range leaves the address space (R78). -/
theorem storeCheck_range (c : Config) (first count : Nat) (hc : 0 < count) (h : memorySize < first + count) :
    storeCheck c first count = some (.addressError, max first memorySize) := by
  simp only [storeCheck, (rangeError_eq_some first count _).2 ⟨hc, h, rfl⟩]

/-- A store inside the address space that would write the protected font (R79). -/
theorem storeCheck_font (c : Config) (first count : Nat) (h : first + count ≤ memorySize)
    (hp : c.fontWriteProtect = true) (hf : first < fontEnd) :
    storeCheck c first count = some (.protectedWrite, first) := by
  simp only [storeCheck, (rangeError_eq_none first count).2 (.inr h)]
  simp [hp, hf]

/-! ## Frames of the shared updates -/

/-- Raising a fault: the latch and the step's output, nothing else (R136). -/
theorem State.raise_eq (s : State) (i : Instr) (k : FaultKind) (a : Option Nat) :
    s.raise i k a = s.latch { kind := k, pc := s.pc, opcode := some (encode i), addr := a } := rfl

/-- A skip writes nothing but PC. -/
theorem State.skip_keeps (s : State) (c : Bool) : Keeps {} s (s.advance.skipIf c) := by
  cases c <;> constructor <;> intros <;> first | rfl | exact ⟨rfl, rfl⟩ | exact ⟨rfl, rfl, rfl, rfl⟩

/-- One register write. -/
theorem State.setReg_keeps (s : State) (x : Reg) (b : Byte) : Keeps { regs := [x] } s (s.setReg x b).advance := by
  constructor
  · intro r hr
    rw [State.reg_advance, State.reg_setReg_other _ _ _ _ (by simpa using hr)]
  all_goals intros; first | rfl | exact ⟨rfl, rfl⟩ | exact ⟨rfl, rfl, rfl, rfl⟩

/-- A register write and then a flag write. -/
theorem State.setReg_setFlag_keeps (s : State) (x : Reg) (b : Byte) (f : Bool) :
    Keeps { regs := [x, VF] } s ((s.setReg x b).setFlag f).advance := by
  constructor
  · intro r hr
    simp only [List.mem_cons, List.not_mem_nil, or_false, not_or] at hr
    rw [State.reg_advance, State.reg_setFlag_other _ _ _ hr.2, State.reg_setReg_other _ _ _ _ hr.1]
  all_goals intros; first | rfl | exact ⟨rfl, rfl⟩ | exact ⟨rfl, rfl, rfl, rfl⟩

/-- A flag write and then a register write. -/
theorem flagThenShift_keeps (s : State) (x : Reg) (b : Byte) (f : Byte → Byte) :
    Keeps { regs := [x, VF] } s (flagThenShift s x b f).advance := by
  constructor
  · intro r hr
    simp only [List.mem_cons, List.not_mem_nil, or_false, not_or] at hr
    rw [State.reg_advance, flagThenShift, State.reg_setReg_other _ _ _ _ hr.1, State.reg_setReg_other _ _ _ _ hr.2]
  all_goals intros; first | rfl | exact ⟨rfl, rfl⟩ | exact ⟨rfl, rfl, rfl, rfl⟩

/-- A write of I. -/
theorem State.setI_keeps (s : State) (w : Word) : Keeps { i := true } s (s.setI w).advance := by
  constructor <;> intros <;> first | rfl | exact ⟨rfl, rfl⟩ | exact ⟨rfl, rfl, rfl, rfl⟩ | contradiction

/-- A block store. -/
theorem State.storeBytes_keeps (s : State) (a : Nat) (bs : List Byte) :
    Keeps { mem := some (a, bs.length) } s (s.storeBytes a bs).advance := by
  constructor
  · intros; simp
  · intro a' h
    rw [State.readByte_advance]
    exact State.readByte_storeBytes_outside s a bs a' h
  all_goals simp

/-- A block load. -/
theorem State.loadRegs_keeps (s : State) (a : Nat) (x : Reg) :
    Keeps { regs := (List.finRange 16).filter (· ≤ x) } s (s.loadRegs a (x.val + 1)).advance := by
  constructor
  · intro r hr
    have hx : x < r := by simpa using hr
    have hlt : ¬ r.val < x.val + 1 := by
      have : x.val < r.val := hx
      omega
    rw [State.reg_advance, State.reg_loadRegs _ _ _ _ (by omega), if_neg hlt]
  all_goals simp

/-! ## The loader (R372) -/

/-- A ROM of a legal size is copied to 0x200. -/
theorem State.loadRom_ok (s : State) (rom : List Byte) (h1 : 1 ≤ rom.length) (h2 : rom.length ≤ maxRomSize) :
    s.loadRom rom = .ok (s.storeBytes programBase rom) := by
  rw [State.loadRom, if_neg (by omega)]

/-- Any other ROM is refused. -/
theorem State.loadRom_error (s : State) (rom : List Byte) (h : rom.length = 0 ∨ rom.length > maxRomSize) :
    s.loadRom rom = .error .malformedRom := by
  rw [State.loadRom, if_pos h]

end Sys2Proof.Machine
end

