-- ==== Sys2Proof/Laws/Display.lean ====
section
/-!
SUPPORT. The framebuffer: pixel read after write, and what one sprite bit and one sprite byte do to the screen and to
the collision flag.
-/

namespace Sys2Proof.Machine

/-- The mask of a column has that column's bit and no other (R40). -/
theorem columnMask_bit (c k : Nat) (hk : k < 64) : (columnMask c).getLsbD k = decide (k = 63 - c) := by
  simp only [columnMask, BitVec.getLsbD_shiftLeft, BitVec.getLsbD_one, hk, decide_true, Bool.true_and]
  rw [Bool.eq_iff_iff]
  simp
  omega

/-- A pixel read after a pixel write (R40). -/
theorem State.pixel_setPixel (s : State) (c r c' r' : Nat) (b : Bool) (hc : c < 64) (hr : r < 32) (hc' : c' < 64)
    (hr' : r' < 32) : (s.setPixel c r b).pixel c' r' = if c' = c ∧ r' = r then b else s.pixel c' r' := by
  simp only [State.setPixel, hr, hc, and_self, dif_pos, State.pixel, hr', hc', decide_true, Bool.true_and]
  by_cases h : r' = r
  · subst h
    have e := columnMask_bit c (63 - c') (by omega)
    simp only [Vector.getElem_set_self, and_true]
    cases b <;> simp [e]
    all_goals
      by_cases hh : c' = c
      · simp [hh]
      · have ne : ¬ 63 - c' = 63 - c := by omega
        have lt : 63 - c' < 64 := by omega
        simp [hh, ne, lt]
  · simp [h, Ne.symm h]

/-- The two states differ in the framebuffer at most. -/
def SameButScreen (s t : State) : Prop := t = { s with fb := t.fb }

theorem SameButScreen.refl (s : State) : SameButScreen s s := rfl

theorem SameButScreen.trans {a b c : State} (h1 : SameButScreen a b) (h2 : SameButScreen b c) :
    SameButScreen a c := by
  unfold SameButScreen at *
  rw [h2, h1]

theorem SameButScreen.readByte {s t : State} (h : SameButScreen s t) (a : Nat) : t.readByte a = s.readByte a := by
  rw [h]; rfl

theorem SameButScreen.spriteBit {s t : State} (h : SameButScreen s t) (a n x0 y0 c r : Nat) :
    Machine.spriteBit t a n x0 y0 c r = Machine.spriteBit s a n x0 y0 c r := by
  simp only [Machine.spriteBit, h.readByte]

theorem setPixel_same (s : State) (c r : Nat) (b : Bool) : SameButScreen s (s.setPixel c r b) := by
  unfold SameButScreen State.setPixel
  split <;> rfl

/-- Drawing writes the framebuffer only (R266). -/
theorem drawBit_same (bit : Bool) (px py : Nat) (d : DrawState) :
    SameButScreen d.state (drawBit bit px py d).state := by
  unfold drawBit
  split
  · exact setPixel_same _ _ _ _
  · exact .refl _

theorem drawColumns_same (b : Byte) (x0 py k : Nat) (d : DrawState) :
    SameButScreen d.state (drawColumns b x0 py k d).state := by
  induction k generalizing d with
  | zero => exact .refl _
  | succ k ih => exact (drawBit_same _ _ _ d).trans (ih _)

theorem drawRows_same (x0 k a y0 : Nat) (d : DrawState) : SameButScreen d.state (drawRows x0 k a y0 d).state := by
  induction k generalizing a y0 d with
  | zero => exact .refl _
  | succ k ih => exact (drawColumns_same _ _ _ _ d).trans (ih _ _ _)

/-- One sprite bit inverts its pixel when it is 1 (R261). -/
theorem drawBit_pixel (bit : Bool) (px py : Nat) (d : DrawState) (c r : Nat) (hx : px < 64) (hy : py < 32)
    (hc : c < 64) (hr : r < 32) :
    (drawBit bit px py d).state.pixel c r = (d.state.pixel c r ^^ (bit && decide (c = px ∧ r = py))) := by
  cases bit
  · simp [drawBit]
  · simp only [drawBit, if_true, State.pixel_setPixel _ _ _ _ _ _ hx hy hc hr]
    split
    · rename_i h; simp [h]
    · rename_i h; simp [h]

/-- One sprite bit is a collision when it is 1 over a lit pixel (R264). -/
theorem drawBit_hit (bit : Bool) (px py : Nat) (d : DrawState) :
    (drawBit bit px py d).hit = (d.hit || (bit && d.state.pixel px py)) := by
  cases bit <;> simp [drawBit]

/-- The sprite bit that the last k columns of a byte at x0 put in column c. -/
def columnBit (b : Byte) (x0 c k : Nat) : Bool :=
  decide ((c + 64 - x0) % 64 < 8) && decide (7 - (c + 64 - x0) % 64 < k) && b.getLsbD (7 - (c + 64 - x0) % 64)

/-- The last k columns of a sprite byte invert the pixels under their set bits, in their row only (R261, R262). -/
theorem drawColumns_pixel (b : Byte) (x0 py k : Nat) (d : DrawState) (c r : Nat) (hx : x0 < 64) (hy : py < 32)
    (hc : c < 64) (hr : r < 32) (hk : k ≤ 8) :
    (drawColumns b x0 py k d).state.pixel c r =
      (d.state.pixel c r ^^ (decide (r = py) && columnBit b x0 c k)) := by
  induction k generalizing d with
  | zero => simp [drawColumns, columnBit]
  | succ k ih =>
    simp only [drawColumns]
    rw [ih _ (by omega), drawBit_pixel _ _ _ _ _ _ (by omega) hy hc hr]
    by_cases h : r = py
    · simp only [h, decide_true, Bool.true_and, and_true, Bool.xor_assoc]
      congr 1
      simp only [columnBit]
      by_cases h2 : c = (x0 + (7 - k)) % 64
      · have e : (c + 64 - x0) % 64 = 7 - k := by omega
        have e2 : 7 - (7 - k) = k := by omega
        rw [h2] at e ⊢
        simp [e, e2]
        omega
      · simp only [h2, decide_false, Bool.and_false, Bool.false_xor]
        by_cases h3 : (c + 64 - x0) % 64 < 8
        · have : (7 - (c + 64 - x0) % 64 < k + 1) ↔ (7 - (c + 64 - x0) % 64 < k) := by omega
          simp [this]
        · simp [h3]
    · simp [h]

/-- They collide when one of their set bits lies over a lit pixel (R261, R264). -/
theorem drawColumns_hit (b : Byte) (x0 py k : Nat) (d : DrawState) (hx : x0 < 64) (hy : py < 32) (hk : k ≤ 8) :
    (drawColumns b x0 py k d).hit = true ↔
      d.hit = true ∨ ∃ c, c < 64 ∧ d.state.pixel c py = true ∧ columnBit b x0 c k = true := by
  induction k generalizing d with
  | zero => simp [drawColumns, columnBit]
  | succ k ih =>
    simp only [drawColumns]
    rw [ih _ (by omega), drawBit_hit]
    have hp : ∀ c, c < 64 → columnBit b x0 c k = true →
        (drawBit (b.getLsbD k) ((x0 + (7 - k)) % 64) py d).state.pixel c py = d.state.pixel c py := by
      intro c hc hcb
      rw [drawBit_pixel _ _ _ _ _ _ (by omega) hy hc hy]
      simp only [columnBit, Bool.and_eq_true, decide_eq_true_eq] at hcb
      have : c ≠ (x0 + (7 - k)) % 64 := by omega
      simp [this]
    constructor
    · rintro (h | ⟨c, hc, h1, h2⟩)
      · simp only [Bool.or_eq_true, Bool.and_eq_true] at h
        rcases h with h | ⟨h1, h2⟩
        · exact .inl h
        · refine .inr ⟨(x0 + (7 - k)) % 64, by omega, h2, ?_⟩
          have e : ((x0 + (7 - k)) % 64 + 64 - x0) % 64 = 7 - k := by omega
          have e2 : 7 - (7 - k) = k := by omega
          simp [columnBit, e, e2, h1]
          omega
      · refine .inr ⟨c, hc, ?_, ?_⟩
        · rwa [hp c hc h2] at h1
        · simp only [columnBit, Bool.and_eq_true, decide_eq_true_eq] at h2 ⊢
          exact ⟨⟨h2.1.1, by omega⟩, h2.2⟩
    · rintro (h | ⟨c, hc, h1, h2⟩)
      · left; simp [h]
      · by_cases hh : columnBit b x0 c k = true
        · exact .inr ⟨c, hc, by rw [hp c hc hh]; exact h1, hh⟩
        · left
          simp only [columnBit, Bool.and_eq_true, decide_eq_true_eq, not_and] at h2 hh
          have e : 7 - (c + 64 - x0) % 64 = k := by
            by_contra hne
            exact hh ⟨h2.1.1, by omega⟩ h2.2
          have e2 : c = (x0 + (7 - k)) % 64 := by omega
          rw [e] at h2
          simp [h2.2, ← e2, h1]

end Sys2Proof.Machine
end

