-- ==== Sys2Proof/Laws/PerInstr.lean ====
section
/-!
SUPPORT. Statements for all instructions, one lemma per constructor.
-/

namespace Sys2Proof.Laws.TableRow

/-- The encoding of an instruction has the fixed bits of its row in spec/opcode_table.json, whatever its operands. -/
def Statement (i : Instr) : Prop :=
  ∀ f ∈ i.fixedFields, (encode i).toNat / 2 ^ f.2.1 % 2 ^ (f.1 - f.2.1 + 1) = f.2.2

theorem cls : Statement (.cls) := by
  simp [Statement, Instr.fixedFields, encode]
theorem ret : Statement (.ret) := by
  simp [Statement, Instr.fixedFields, encode]
theorem sys (nnn : Addr) : Statement (.sys nnn) := by
  simp [Statement, Instr.fixedFields, encode, packNNN_toNat]
  omega
theorem jp (nnn : Addr) : Statement (.jp nnn) := by
  simp [Statement, Instr.fixedFields, encode, packNNN_toNat]
  omega
theorem call (nnn : Addr) : Statement (.call nnn) := by
  simp [Statement, Instr.fixedFields, encode, packNNN_toNat]
  omega
theorem seByte (x : Reg) (nn : Byte) : Statement (.seByte x nn) := by
  simp [Statement, Instr.fixedFields, encode, packXNN_toNat]
  omega
theorem sneByte (x : Reg) (nn : Byte) : Statement (.sneByte x nn) := by
  simp [Statement, Instr.fixedFields, encode, packXNN_toNat]
  omega
theorem seReg (x y : Reg) : Statement (.seReg x y) := by
  simp [Statement, Instr.fixedFields, encode, packXYN_toNat]
  omega
theorem ldByte (x : Reg) (nn : Byte) : Statement (.ldByte x nn) := by
  simp [Statement, Instr.fixedFields, encode, packXNN_toNat]
  omega
theorem addByte (x : Reg) (nn : Byte) : Statement (.addByte x nn) := by
  simp [Statement, Instr.fixedFields, encode, packXNN_toNat]
  omega
theorem ldReg (x y : Reg) : Statement (.ldReg x y) := by
  simp [Statement, Instr.fixedFields, encode, packXYN_toNat]
  omega
theorem orReg (x y : Reg) : Statement (.orReg x y) := by
  simp [Statement, Instr.fixedFields, encode, packXYN_toNat]
  omega
theorem andReg (x y : Reg) : Statement (.andReg x y) := by
  simp [Statement, Instr.fixedFields, encode, packXYN_toNat]
  omega
theorem xorReg (x y : Reg) : Statement (.xorReg x y) := by
  simp [Statement, Instr.fixedFields, encode, packXYN_toNat]
  omega
theorem addReg (x y : Reg) : Statement (.addReg x y) := by
  simp [Statement, Instr.fixedFields, encode, packXYN_toNat]
  omega
theorem subReg (x y : Reg) : Statement (.subReg x y) := by
  simp [Statement, Instr.fixedFields, encode, packXYN_toNat]
  omega
theorem shr (x y : Reg) : Statement (.shr x y) := by
  simp [Statement, Instr.fixedFields, encode, packXYN_toNat]
  omega
theorem subnReg (x y : Reg) : Statement (.subnReg x y) := by
  simp [Statement, Instr.fixedFields, encode, packXYN_toNat]
  omega
theorem shl (x y : Reg) : Statement (.shl x y) := by
  simp [Statement, Instr.fixedFields, encode, packXYN_toNat]
  omega
theorem sneReg (x y : Reg) : Statement (.sneReg x y) := by
  simp [Statement, Instr.fixedFields, encode, packXYN_toNat]
  omega
theorem ldI (nnn : Addr) : Statement (.ldI nnn) := by
  simp [Statement, Instr.fixedFields, encode, packNNN_toNat]
  omega
theorem jpV0 (nnn : Addr) : Statement (.jpV0 nnn) := by
  simp [Statement, Instr.fixedFields, encode, packNNN_toNat]
  omega
theorem rnd (x : Reg) (nn : Byte) : Statement (.rnd x nn) := by
  simp [Statement, Instr.fixedFields, encode, packXNN_toNat]
  omega
theorem drw (x y : Reg) (n : Nibble) : Statement (.drw x y n) := by
  simp [Statement, Instr.fixedFields, encode, packXYN_toNat]
  omega
theorem skp (x : Reg) : Statement (.skp x) := by
  simp [Statement, Instr.fixedFields, encode, packXNN_toNat]
  omega
theorem sknp (x : Reg) : Statement (.sknp x) := by
  simp [Statement, Instr.fixedFields, encode, packXNN_toNat]
  omega
theorem ldVxDt (x : Reg) : Statement (.ldVxDt x) := by
  simp [Statement, Instr.fixedFields, encode, packXNN_toNat]
  omega
theorem ldVxK (x : Reg) : Statement (.ldVxK x) := by
  simp [Statement, Instr.fixedFields, encode, packXNN_toNat]
  omega
theorem ldDtVx (x : Reg) : Statement (.ldDtVx x) := by
  simp [Statement, Instr.fixedFields, encode, packXNN_toNat]
  omega
theorem ldStVx (x : Reg) : Statement (.ldStVx x) := by
  simp [Statement, Instr.fixedFields, encode, packXNN_toNat]
  omega
theorem addI (x : Reg) : Statement (.addI x) := by
  simp [Statement, Instr.fixedFields, encode, packXNN_toNat]
  omega
theorem ldF (x : Reg) : Statement (.ldF x) := by
  simp [Statement, Instr.fixedFields, encode, packXNN_toNat]
  omega
theorem ldB (x : Reg) : Statement (.ldB x) := by
  simp [Statement, Instr.fixedFields, encode, packXNN_toNat]
  omega
theorem ldMemVx (x : Reg) : Statement (.ldMemVx x) := by
  simp [Statement, Instr.fixedFields, encode, packXNN_toNat]
  omega
theorem ldVxMem (x : Reg) : Statement (.ldVxMem x) := by
  simp [Statement, Instr.fixedFields, encode, packXNN_toNat]
  omega

end Sys2Proof.Laws.TableRow
end

