-- ==== Sys2Proof/Laws/Timer.lean ====
section
/-!
SUPPORT. The timer synchronizer: one tick, and the catch-up loop in closed form.
-/

namespace Sys2Proof.Machine

/-- A countdown stops at 0 (R38). -/
@[simp] theorem countDown_toNat (b : Byte) : (countDown b).toNat = b.toNat - 1 := by
  unfold countDown
  split
  · rename_i h; subst h; rfl
  · rename_i h
    have hb := b.isLt
    have : b.toNat ≠ 0 := fun e => h (BitVec.eq_of_toNat_eq e)
    rw [BitVec.toNat_sub]
    simp
    omega

/-- A tick beeps when ST goes from 1 to 0 (R342). -/
theorem Timers.tick_beep (p : Nat) (t : Timers) : (t.tick p).beep = true ↔ t.beep = true ∨ t.st.toNat = 1 := by
  simp only [Timers.tick, Bool.or_eq_true, decide_eq_true_eq, ← BitVec.toNat_inj]
  rfl

/-- How many ticks the loop makes: one for each boundary not after `now`, at most `room` (R340, R341). -/
def loopTicks (p now deadline room : Nat) : Nat :=
  if now < deadline then 0 else min ((now - deadline) / p + 1) room

/-- One tick made, one fewer to make. -/
theorem loopTicks_succ (p now deadline room : Nat) (hp : 0 < p) (h : deadline ≤ now) :
    loopTicks p now deadline (room + 1) = loopTicks p now (deadline + p) room + 1 := by
  simp only [loopTicks, if_neg (Nat.not_lt.2 h)]
  split
  · rw [Nat.div_eq_of_lt (by omega)]
    omega
  · have : (now - deadline) / p = (now - (deadline + p)) / p + 1 := by
      rw [← Nat.add_div_right _ hp]
      congr 1
      omega
    omega

/-- The catch-up loop: so many decrements of both timers and so many periods, and a beep if ST reached 0 in them. -/
theorem Timers.catchUp_spec (p now room : Nat) (hp : 0 < p) (t : Timers) :
    (Timers.catchUp p now room t).dt.toNat = t.dt.toNat - loopTicks p now t.deadline room ∧
    (Timers.catchUp p now room t).st.toNat = t.st.toNat - loopTicks p now t.deadline room ∧
    (Timers.catchUp p now room t).deadline = t.deadline + loopTicks p now t.deadline room * p ∧
    ((Timers.catchUp p now room t).beep = true ↔
      t.beep = true ∨ (1 ≤ t.st.toNat ∧ t.st.toNat ≤ loopTicks p now t.deadline room)) := by
  induction room generalizing t with
  | zero =>
    simp only [Timers.catchUp, loopTicks, Nat.min_zero, ite_self, Nat.sub_zero, Nat.zero_mul, Nat.add_zero, true_and]
    constructor
    · exact .inl
    · rintro (h | h)
      · exact h
      · omega
  | succ room ih =>
    simp only [Timers.catchUp]
    split
    · rename_i h
      obtain ⟨a, b, c, d⟩ := ih (t.tick p)
      have e1 : (t.tick p).dt.toNat = t.dt.toNat - 1 := countDown_toNat _
      have e2 : (t.tick p).st.toNat = t.st.toNat - 1 := countDown_toNat _
      have e3 : (t.tick p).deadline = t.deadline + p := rfl
      rw [e3] at a b c d
      rw [loopTicks_succ p now t.deadline room hp h]
      generalize loopTicks p now (t.deadline + p) room = k at *
      refine ⟨by omega, by omega, ?_, ?_⟩
      · rw [c, Nat.succ_mul]; omega
      · rw [d, Timers.tick_beep, e2]
        cases t.beep
        · simp; omega
        · simp
    · rename_i h
      have : now < t.deadline := by omega
      simp only [loopTicks, this, if_true, Nat.sub_zero, Nat.zero_mul, Nat.add_zero, true_and]
      constructor
      · exact .inl
      · rintro (h | h)
        · exact h
        · omega

/-- The synchronizer reads the parameters, the timers and the deadline, and nothing else (R340). -/
theorem State.timersAt_congr (s t : State) (now : Nat) (hc : t.cfg = s.cfg) (hd : t.dt = s.dt) (hs : t.st = s.st)
    (hl : t.deadline = s.deadline) : t.timersAt now = s.timersAt now := by
  simp only [State.timersAt, hc, hd, hs, hl]

@[simp] theorem State.timersAt_receive (s : State) (now : Nat) : s.receive.timersAt now = s.timersAt now := rfl

@[simp] theorem State.timersAt_pollKeys (s : State) (kw : KeyWait) (now : Nat) :
    (s.pollKeys kw).timersAt now = s.timersAt now :=
  State.timersAt_congr _ _ now (s.pollKeys_cfg kw) (s.pollKeys_dt kw) (s.pollKeys_st kw) (s.pollKeys_deadline kw)

/-- The end of a step that did not fault is one run of the synchronizer (R130). -/
theorem State.finish_running (s : State) (h : s.fault = none) : s.finish = s.timerSync s.now := by
  simp [State.finish, State.halted, h]

/-- The end of a step that faulted does nothing (R328). -/
theorem State.finish_faulted (s : State) (h : s.fault ≠ none) : s.finish = s := by
  simp [State.finish, State.halted, Option.isSome_iff_ne_none, h]

/-- The end of a step leaves the changed output alone. -/
@[simp] theorem State.finish_changed (s : State) : s.finish.out.changed = s.out.changed := by
  unfold State.finish
  split <;> rfl

end Sys2Proof.Machine
end

