-- ==== Sys2Proof/Laws/Step.lean ====
section
/-!
SUPPORT. The fetch, the cycle and the step taken apart: the lemmas that a proof about a step cites.
-/

namespace Sys2Proof.Machine

/-! ## Fetch (R132) -/

/-- The word a fetch reads is the opcode at PC (R73, R74). -/
theorem opcodeAtPc_eq (s : State) : opcodeAtPc s = s.readWord s.pc.toNat := by
  apply BitVec.eq_of_toNat_eq
  have h1 := (s.readByte s.pc.toNat).isLt
  have h2 := (s.readByte (s.pc.toNat + 1)).isLt
  rw [State.readWord, wordOfBytes_toNat, opcodeAtPc, BitVec.toNat_ofNat]
  omega

/-- A fetch passes its checks exactly where PC is fetchable. -/
theorem fetchCheck_eq_none (s : State) : fetchCheck s.cfg s.pc = none ↔ Fetchable s := by
  simp only [fetchCheck, Fetchable]
  cases s.cfg.fetchAlignCheck
  · simp
  · simp only [Bool.true_and, decide_eq_true_eq, true_implies]
    split
    · simp; omega
    · split <;> simp <;> omega

theorem State.fetch_ok (s : State) (h : Fetchable s) : s.fetch = .ok (opcodeAtPc s) := by
  rw [State.fetch, (fetchCheck_eq_none s).2 h, opcodeAtPc_eq]

/-- The checks of an odd PC, with the alignment check on. -/
theorem fetchCheck_odd (c : Config) (pc : Word) (h1 : c.fetchAlignCheck = true) (h2 : pc.toNat % 2 = 1) :
    fetchCheck c pc = some (.misalignedFetch, pc.toNat) := by
  simp [fetchCheck, h1, h2]

/-- The checks of a PC past the address space that passes the alignment check. -/
theorem fetchCheck_range (c : Config) (pc : Word) (h1 : ¬ (c.fetchAlignCheck = true ∧ pc.toNat % 2 = 1))
    (h2 : pc.toNat > 0xFFE) : fetchCheck c pc = some (.addressError, max pc.toNat memorySize) := by
  simp only [fetchCheck, Bool.and_eq_true, decide_eq_true_eq]
  rw [if_neg h1, if_pos (by omega)]

/-! ## Landing of inputs -/

/-- The landing of a step's inputs does not change what is fetched. -/
@[simp] theorem opcodeAtPc_receive (s : State) : opcodeAtPc s.receive = opcodeAtPc s := rfl

@[simp] theorem fetchable_receive (s : State) : Fetchable s.receive ↔ Fetchable s := Iff.rfl

/-- The input a step takes is the first of the coming ones. -/
@[simp] theorem State.inputAt_zero (s : State) : s.inputAt 0 = s.nextInput := by
  unfold State.inputAt State.nextInput
  cases s.inputs <;> rfl

/-- After a step's inputs have landed, the coming inputs are the ones after it. -/
@[simp] theorem State.inputAt_receive (s : State) (k : Nat) : s.receive.inputAt k = s.inputAt (k + 1) := by
  simp only [State.inputAt, State.receive_inputs, State.receive_stepNo, List.getElem?_tail]
  rw [Nat.add_assoc, Nat.add_comm 1 k]

/-! ## Cycle and step (R130, R131) -/

theorem cycle_of_decode (s : State) (i : Instr) (h : Fetchable s) (hd : decode (opcodeAtPc s) = some i) :
    cycle s = exec i s := by
  simp only [cycle, s.fetch_ok h, hd]

theorem cycle_of_illegal (s : State) (h : Fetchable s) (hd : decode (opcodeAtPc s) = none) :
    cycle s = .next (s.latch (s.illegalRecord (opcodeAtPc s))) := by
  simp only [cycle, s.fetch_ok h, hd]

theorem cycle_of_fetchCheck (s : State) (k : FaultKind) (a : Nat) (h : fetchCheck s.cfg s.pc = some (k, a)) :
    cycle s = .next (s.latch (s.faultRecord k none (some a))) := by
  simp only [cycle, State.fetch, h]

theorem cycleOrPoll_awake (s : State) (h : s.wait = none) : cycleOrPoll s = cycle s := by
  simp only [cycleOrPoll, h]

theorem cycleOrPoll_waiting (s : State) (kw : KeyWait) (h : s.wait = some kw) :
    cycleOrPoll s = .next (s.pollKeys kw) := by
  simp only [cycleOrPoll, h]

/-- A step of a core that is not halted. -/
theorem step_running (s : State) (h : s.fault = none) : step s = finishStep (cycleOrPoll s.receive) := by
  simp [step, State.halted, h]

/-- A step of a halted core: its inputs land and nothing else happens (R44, R137). -/
theorem step_halted (s : State) (h : s.fault ≠ none) : step s = .next s.receive.haltedStep := by
  simp [step, State.halted, Option.isSome_iff_ne_none, h]

/-- A run of one step more goes on from the first step's state. -/
theorem run_succ_of_next (k : Nat) (s t : State) (h : step s = .next t) :
    Host.Core.run core (k + 1) s = Host.Core.run core k t := by
  have hs : core.step s = .next t := h
  simp only [Host.Core.run, hs]

/-! ## Where a word is put for the next fetch -/

theorem fetchablePc_check (s : State) : fetchCheck s.cfg s.fetchablePc = none := by
  unfold State.fetchablePc
  split
  · rename_i h; simpa using h
  · simp [fetchCheck, programBase]

theorem fetchablePc_le (s : State) : s.fetchablePc.toNat + 1 ≤ 0xFFF := by
  have h := fetchablePc_check s
  by_contra hn
  simp only [fetchCheck, if_pos (show s.fetchablePc.toNat + 1 > 0xFFF by omega)] at h
  split at h <;> cases h

end Sys2Proof.Machine
end

