-- ==== Sys2Proof/Machine/Asm.lean ====
section
/-!
DEFINITION. The assembler syntax of 30_encoding.md R109: a function of the decoded instruction alone (R110). It has no
effect on any state (40_pipeline.md R144). Digits are written as notes/assumptions/14.md says.
-/

namespace Sys2Proof.Machine

/-- One upper-case hexadecimal digit. -/
def hexDigit (d : Fin 16) : String :=
  match d.val with
  | 0 => "0" | 1 => "1" | 2 => "2" | 3 => "3" | 4 => "4" | 5 => "5" | 6 => "6" | 7 => "7"
  | 8 => "8" | 9 => "9" | 10 => "A" | 11 => "B" | 12 => "C" | 13 => "D" | 14 => "E" | _ => "F"

/-- A register, `V0`..`VF` (R109). -/
def regText (x : Reg) : String := "V" ++ hexDigit x

/-- The hexadecimal digit of weight 16^k of a number. -/
def hexDigitAt (n k : Nat) : String := hexDigit (Fin.ofNat 16 (n / 16 ^ k))

/-- A byte operand as `0x` and two digits. -/
def byteText (nn : Byte) : String := "0x" ++ hexDigitAt nn.toNat 1 ++ hexDigitAt nn.toNat 0

/-- An address operand as `0x` and three digits. -/
def addrText (nnn : Addr) : String :=
  "0x" ++ hexDigitAt nnn.toNat 2 ++ hexDigitAt nnn.toNat 1 ++ hexDigitAt nnn.toNat 0

/-- Two operands. -/
def pairText (a b : String) : String := a ++ ", " ++ b

/-- The text of an instruction (R109). -/
def asmText : Instr → String
  | .cls => "CLS"
  | .ret => "RET"
  | .sys nnn => "SYS " ++ addrText nnn
  | .jp nnn => "JP " ++ addrText nnn
  | .call nnn => "CALL " ++ addrText nnn
  | .seByte x nn => "SE " ++ pairText (regText x) (byteText nn)
  | .sneByte x nn => "SNE " ++ pairText (regText x) (byteText nn)
  | .seReg x y => "SE " ++ pairText (regText x) (regText y)
  | .ldByte x nn => "LD " ++ pairText (regText x) (byteText nn)
  | .addByte x nn => "ADD " ++ pairText (regText x) (byteText nn)
  | .ldReg x y => "LD " ++ pairText (regText x) (regText y)
  | .orReg x y => "OR " ++ pairText (regText x) (regText y)
  | .andReg x y => "AND " ++ pairText (regText x) (regText y)
  | .xorReg x y => "XOR " ++ pairText (regText x) (regText y)
  | .addReg x y => "ADD " ++ pairText (regText x) (regText y)
  | .subReg x y => "SUB " ++ pairText (regText x) (regText y)
  | .shr x y => "SHR " ++ pairText (regText x) (regText y)
  | .subnReg x y => "SUBN " ++ pairText (regText x) (regText y)
  | .shl x y => "SHL " ++ pairText (regText x) (regText y)
  | .sneReg x y => "SNE " ++ pairText (regText x) (regText y)
  | .ldI nnn => "LD " ++ pairText "I" (addrText nnn)
  | .jpV0 nnn => "JP " ++ pairText "V0" (addrText nnn)
  | .rnd x nn => "RND " ++ pairText (regText x) (byteText nn)
  | .drw x y n => "DRW " ++ pairText (pairText (regText x) (regText y)) ("0x" ++ hexDigit n)
  | .skp x => "SKP " ++ regText x
  | .sknp x => "SKNP " ++ regText x
  | .ldVxDt x => "LD " ++ pairText (regText x) "DT"
  | .ldVxK x => "LD " ++ pairText (regText x) "K"
  | .ldDtVx x => "LD " ++ pairText "DT" (regText x)
  | .ldStVx x => "LD " ++ pairText "ST" (regText x)
  | .addI x => "ADD " ++ pairText "I" (regText x)
  | .ldF x => "LD " ++ pairText "F" (regText x)
  | .ldB x => "LD " ++ pairText "B" (regText x)
  | .ldMemVx x => "LD " ++ pairText "[I]" (regText x)
  | .ldVxMem x => "LD " ++ pairText (regText x) "[I]"

end Sys2Proof.Machine
end

