-- ==== Sys2Proof/Tests/Slice0.lean ====
section
/-!
SUPPORT. Tests on fixed values, one step each, and the witnesses of the obligations' hypotheses. A docstring names the
vector of spec/95_test_vectors.md (S, TF, TC, TA, TM, TD, TK, TT, TR) or the rule the expected result is taken from.
-/

namespace Sys2Proof.Tests.Slice0

open Sys2Proof.Machine

set_option maxRecDepth 8000

/-! ## Helpers -/

/-- The vectors' parameters: the defaults of R8, with P = 10 and MAX_CATCHUP_TICKS = 180. -/
def params : Config := { standardConfig with tickPeriod := 10, maxCatchup := 180 }

/-- The reset state at time 0 with those parameters: the deadline is 10. -/
def base : State := State.resetAt params 0

/-- An input that lets no timer tick, with random byte A7 and no key held. -/
def quiet : StepInput where
  now := 0
  rnd := 0xA7
  keys := 0

/-- The next state of an outcome. -/
def nextOf : Host.Outcome State Fault Refusal → State
  | .next t => t
  | .fault r => nomatch r
  | .refused _ => base

/-- One step of `s` on an input. -/
def stepOn (inp : StepInput) (s : State) : State := nextOf (step { s with inputs := [inp] })

/-- One step of `s` that runs the word `w` placed at PC. -/
def runWord (s : State) (w : Nat) : State := stepOn quiet (s.withFetchWord 16 w)

/-- `s` with PC at `a`. -/
def atPc (a : Word) : State := { base with pc := a }

/-- `s` with I at `a`. -/
def atI (a : Word) : State := { base with i := a }

/-! ## Well-formedness (R105) -/

/-- The words 00E0 and 00EE are not SYS, so these two terms stand for no word. -/
theorem test_wf_refuses_sys_0E0_and_0EE : (Instr.sys 0x0E0).wf = false ∧ (Instr.sys 0x0EE).wf = false := by decide

theorem test_wf_accepts_their_neighbours :
    (Instr.sys 0x0E1).wf = true ∧ (Instr.sys 0x0EF).wf = true ∧ Instr.cls.wf = true ∧ Instr.ret.wf = true := by decide

/-! ## Decoding, one word written out for every constructor (R102) -/

/-- TF-9, TF-10, TC-1, TC-4, TC-7. -/
theorem test_decode_class_0_1_2 :
    decode 0b0000000011100000#16 = some .cls ∧ decode 0b0000000011101110#16 = some .ret ∧
    decode 0b0000000000000000#16 = some (.sys 0) ∧ decode 0b0000000011101111#16 = some (.sys 0x0EF) ∧
    decode 0b0000000011100001#16 = some (.sys 0x0E1) ∧ decode 0b0000111111111111#16 = some (.sys 0xFFF) ∧
    decode 0b0001001000001000#16 = some (.jp 0x208) ∧ decode 0b0010001000010000#16 = some (.call 0x210) := by decide

/-- TC-14, TC-16, TC-18, TC-21, TC-11. -/
theorem test_decode_skips_and_jp_v0 :
    decode 0b0011001100010000#16 = some (.seByte 3 0x10) ∧ decode 0b0100001100010000#16 = some (.sneByte 3 0x10) ∧
    decode 0b0101000100100000#16 = some (.seReg 1 2) ∧ decode 0b1001000100100000#16 = some (.sneReg 1 2) ∧
    decode 0b1011001100000000#16 = some (.jpV0 0x300) := by decide

/-- TA-1, TA-3, TA-37. -/
theorem test_decode_immediates :
    decode 0b0110101000111100#16 = some (.ldByte 10 0x3C) ∧ decode 0b0111000011111111#16 = some (.addByte 0 0xFF) ∧
    decode 0b1100001100001111#16 = some (.rnd 3 0x0F) := by decide

/-- TA-6 to TA-9, S9, TA-18, TA-23, TA-28, TA-35. -/
theorem test_decode_class_8 :
    decode 0b1000000101000000#16 = some (.ldReg 1 4) ∧ decode 0b1000000100100001#16 = some (.orReg 1 2) ∧
    decode 0b1000000100100010#16 = some (.andReg 1 2) ∧ decode 0b1000000100100011#16 = some (.xorReg 1 2) ∧
    decode 0b1000001101000100#16 = some (.addReg 3 4) ∧ decode 0b1000000100100101#16 = some (.subReg 1 2) ∧
    decode 0b1000001001110110#16 = some (.shr 2 7) ∧ decode 0b1000000100100111#16 = some (.subnReg 1 2) ∧
    decode 0b1000111100001110#16 = some (.shl 15 0) := by decide

/-- TM-1, TD-3, TK-1, TK-3. -/
theorem test_decode_class_A_D_E :
    decode 0b1010000100100011#16 = some (.ldI 0x123) ∧ decode 0b1101000100100101#16 = some (.drw 1 2 5) ∧
    decode 0b1110010110011110#16 = some (.skp 5) ∧ decode 0b1110010110100001#16 = some (.sknp 5) := by decide

/-- TK-6, TK-12, TK-8, TK-10, TM-3, TM-7, TM-10, TM-20, TM-26. -/
theorem test_decode_class_F :
    decode 0b1111101100000111#16 = some (.ldVxDt 11) ∧ decode 0b1111000000001010#16 = some (.ldVxK 0) ∧
    decode 0b1111101000010101#16 = some (.ldDtVx 10) ∧ decode 0b1111000100011000#16 = some (.ldStVx 1) ∧
    decode 0b1111000100011110#16 = some (.addI 1) ∧ decode 0b1111101000101001#16 = some (.ldF 10) ∧
    decode 0b1111000000110011#16 = some (.ldB 0) ∧ decode 0b1111001001010101#16 = some (.ldMemVx 2) ∧
    decode 0b1111001001100101#16 = some (.ldVxMem 2) := by decide

/-- TF-7, TF-8, TA-40. -/
theorem test_decode_rejects_illegal_words :
    [0x5121, 0x800F, 0x8008, 0xE000, 0xF000, 0xF0FF, 0x9121, 0xE19F, 0x8128, 0x8129, 0x812A, 0x812B, 0x812C, 0x812D,
      0x812F].all (fun w => (decodeTableWord 16 w).isNone) = true := by decide

/-- The high byte of an opcode stands first (R73), and one byte is no instruction (R100). -/
theorem test_decodeBytes :
    decodeBytes [0x61, 0x23, 0x99] = .ok (.ldByte 1 0x23, [0x99]) ∧
    decodeBytes [0x51, 0x21] = .error (.illegalOpcode 0x5121) ∧ decodeBytes [0x61] = .error .truncated := by
  decide +kernel

/-- The encodings of S9's and TD-3's instructions. -/
theorem test_encode : encode (.addReg 3 4) = 0x8344 ∧ encode (.drw 1 2 5) = 0xD125 := by decide

/-- R109: S9's `ADD V3, V4`; the SYS fallback; a draw. -/
theorem test_asmText :
    asmText (.addReg 3 4) = "ADD V3, V4" ∧ asmText (.sys 0x042) = "SYS 0x042" ∧
    asmText (.drw 1 2 5) = "DRW V1, V2, 0x5" := by decide +kernel

/-! ## The step, fetch and faults -/

/-- TF-2: an odd PC faults with no opcode in the record, and the step reports the record. -/
theorem test_fetch_misaligned :
    (stepOn quiet (atPc 0x201)).fault = some ⟨.misalignedFetch, 0x201, none, some 0x201⟩ ∧
    (stepOn quiet (atPc 0x201)).pc = 0x201 ∧
    (stepOn quiet (atPc 0x201)).out.raised = (stepOn quiet (atPc 0x201)).fault := by decide

/-- TF-3: with FETCH_ALIGN_CHECK = false an odd PC is fetched from. -/
theorem test_fetch_unchecked_odd :
    let s := { atPc 0x201 with cfg := { params with fetchAlignCheck := false } }
    (runWord s 0x6A05).reg 10 = 0x05 ∧ (runWord s 0x6A05).pc = 0x203 := by decide

/-- TF-4 (its second step), TF-5, TF-6. -/
theorem test_fetch_outside_memory :
    (stepOn quiet (atPc 0x1000)).fault = some ⟨.addressError, 0x1000, none, some 0x1000⟩ ∧
    (stepOn quiet { atPc 0xFFF with cfg := { params with fetchAlignCheck := false } }).fault =
      some ⟨.addressError, 0xFFF, none, some 0x1000⟩ ∧
    (stepOn quiet (atPc 0x1002)).fault = some ⟨.addressError, 0x1002, none, some 0x1002⟩ := by decide

/-- TF-7, TF-12, P6: an illegal word halts the core; ST does not tick in that step. -/
theorem test_illegal_word_halts :
    let t := stepOn { quiet with now := 10 } (({ base with st := 1 } : State).storeBytes 0x200 [0x51, 0x21])
    t.fault = some ⟨.illegalOpcode, 0x200, some 0x5121, none⟩ ∧ t.pc = 0x200 ∧ t.st = 1 ∧ t.out.beep = false ∧
    t.fault.map FaultRecord.code = some 1 := by decide

/-- TF-11: a halted core changes nothing, however late it is; the keys the host writes to it are there (R44). -/
theorem test_halted_step :
    let s := { base with dt := 5, fault := some ⟨.stackUnderflow, 0x200, some 0x00EE, none⟩ }
    let t := stepOn { quiet with now := 1000, keys := 0x0028 } s
    t.dt = 5 ∧ t.deadline = 10 ∧ t.pc = 0x200 ∧ t.fault = s.fault ∧ t.out = StepOutput.idle ∧ t.keys = 0x0028 := by
  decide

/-- R320: the codes. -/
theorem test_fault_codes :
    [FaultKind.illegalOpcode, .stackOverflow, .stackUnderflow, .addressError, .misalignedFetch, .protectedWrite,
      .keyIndexRange].map FaultKind.code = [1, 2, 3, 4, 5, 6, 7] ∧ LoadError.malformedRom.code = 8 := by decide

/-- TF-13: the instruction first and then one tick. -/
theorem test_step_ticks_after_the_cycle :
    let t := stepOn { quiet with now := 10 } (({ base with dt := 3 } : State).withFetchWord 16 0x6007)
    t.reg 0 = 7 ∧ t.dt = 2 ∧ t.deadline = 20 ∧ t.out.changed = false := by decide

/-- The first step after reset runs the placed word, whatever the free inputs are (R7, R373). -/
theorem test_first_step_from_reset :
    (nextOf (step (State.reset.withFetchWord 16 0x6A3C))).reg 10 = 0x3C ∧
    (nextOf (step (State.reset.withFetchWord 16 0x1208))).pc = 0x208 := by decide

/-! ## Control transfer -/

/-- TC-1, TF-4 (its first step). -/
theorem test_sys : (runWord base 0x0123).pc = 0x202 ∧ (runWord (atPc 0xFFE) 0x0000).pc = 0x1000 := by decide

/-- TC-2: the popped entry keeps its value. -/
theorem test_ret :
    let t := runWord { base with sp := 1, stack := base.stack.set 0 0x206 } 0x00EE
    t.sp = 0 ∧ t.pc = 0x206 ∧ t.stack[0] = 0x206 := by decide

/-- TC-3. -/
theorem test_ret_underflow :
    (runWord base 0x00EE).fault = some ⟨.stackUnderflow, 0x200, some 0x00EE, none⟩ ∧
    (runWord base 0x00EE).pc = 0x200 ∧ (runWord base 0x00EE).sp = 0 := by decide

/-- TC-5, TC-6. -/
theorem test_jp : (runWord base 0x1201).pc = 0x201 ∧ (runWord base 0x1200).pc = 0x200 := by decide

/-- TC-8, TC-10. -/
theorem test_call :
    (runWord { atPc 0x300 with sp := 15 } 0x2400).stack[15] = 0x302 ∧
    (runWord { atPc 0x300 with sp := 15 } 0x2400).sp = 16 ∧ (runWord { atPc 0x300 with sp := 15 } 0x2400).pc = 0x400 ∧
    (runWord (atPc 0xFFE) 0x2300).stack[0] = 0x1000 := by decide

/-- TC-9. -/
theorem test_call_overflow :
    let t := runWord { atPc 0x300 with sp := 16 } 0x2400
    t.fault = some ⟨.stackOverflow, 0x300, some 0x2400, none⟩ ∧ t.sp = 16 ∧ t.pc = 0x300 ∧ t.stack = base.stack := by
  decide

/-- TC-12, TC-13. -/
theorem test_jp_v0 :
    (runWord (base.setReg 0 0xFF) 0xBFFF).pc = 0x10FE ∧
    (runWord ((base.setReg 0 1).setReg 5 0x99) 0xB500).pc = 0x501 := by decide

/-- TC-14, TC-15, TC-25. -/
theorem test_se_byte :
    (runWord (base.setReg 3 0x10) 0x3310).pc = 0x204 ∧ (runWord (base.setReg 3 0x11) 0x3310).pc = 0x202 ∧
    (runWord (atPc 0xFFE) 0x3000).pc = 0x1002 := by decide

/-- TC-16, TC-17. -/
theorem test_sne_byte :
    (runWord (base.setReg 3 0x10) 0x4310).pc = 0x202 ∧ (runWord base 0x4310).pc = 0x204 := by decide

/-- TC-18, TC-19; and unequal registers (R167). -/
theorem test_se_reg :
    (runWord ((base.setReg 1 7).setReg 2 7) 0x5120).pc = 0x204 ∧ (runWord base 0x5110).pc = 0x204 ∧
    (runWord (base.setReg 1 7) 0x5120).pc = 0x202 := by decide

/-- TC-21, TC-22. -/
theorem test_sne_reg :
    (runWord ((base.setReg 1 7).setReg 2 8) 0x9120).pc = 0x204 ∧ (runWord base 0x9110).pc = 0x202 := by decide

/-! ## Arithmetic and logic -/

/-- V1 and V2 set to `a` and `b`. -/
def withV12 (a b : Byte) : State := (base.setReg 1 a).setReg 2 b

/-- V1 and VF after a word. -/
def v1AndVF (s : State) (w : Nat) : Byte × Byte := ((runWord s w).reg 1, (runWord s w).reg VF)

/-- TA-1, TA-2. -/
theorem test_ld_byte : (runWord base 0x6A3C).reg 10 = 0x3C ∧ (runWord base 0x6F12).reg VF = 0x12 := by decide

/-- TA-3, TA-4, TA-5. -/
theorem test_add_byte :
    (runWord ((base.setReg 0 5).setReg VF 0x55) 0x70FF).reg 0 = 4 ∧
    (runWord ((base.setReg 0 5).setReg VF 0x55) 0x70FF).reg VF = 0x55 ∧
    (runWord (base.setReg 0 0xFF) 0x7001).reg VF = 0 ∧ (runWord (base.setReg VF 0xFE) 0x7F01).reg VF = 0xFF := by decide

/-- TA-6. -/
theorem test_ld_reg : (runWord (base.setReg 4 0x99) 0x8140).reg 1 = 0x99 := by decide

/-- TA-7. -/
theorem test_or : v1AndVF ((withV12 0x0F 0xF0).setReg VF 0x77) 0x8121 = (0xFF, 0x77) := by decide

/-- TA-8. -/
theorem test_and : v1AndVF (withV12 0x3C 0x0F) 0x8122 = (0x0C, 0) := by decide

/-- TA-9, TA-10. -/
theorem test_xor :
    v1AndVF (withV12 0x3C 0x0F) 0x8123 = (0x33, 0) ∧ v1AndVF (withV12 0x3C 0x0F) 0x8113 = (0, 0) := by decide

/-- S1, TA-12, TA-13. -/
theorem test_add_reg :
    v1AndVF (withV12 0xFF 0x01) 0x8124 = (0x00, 1) ∧ v1AndVF (withV12 0x7F 0x01) 0x8124 = (0x80, 0) ∧
    v1AndVF (withV12 0x80 0x80) 0x8124 = (0x00, 1) := by decide

/-- TA-14, TA-15, TA-16, TA-17: x = y, and VF as an operand. -/
theorem test_add_reg_aliases :
    (runWord (base.setReg 2 0x81) 0x8224).reg 2 = 2 ∧ v1AndVF ((withV12 1 0).setReg VF 0xFF) 0x8F14 = (1, 1) ∧
    v1AndVF ((withV12 1 0).setReg VF 0x10) 0x8F14 = (1, 0) ∧
    (runWord ((base.setReg 0 1).setReg VF 1) 0x80F4).reg 0 = 2 := by decide

/-- S2, TA-19, TA-20. -/
theorem test_sub :
    v1AndVF (withV12 0x01 0x02) 0x8125 = (0xFF, 0) ∧ v1AndVF (withV12 0x05 0x05) 0x8125 = (0x00, 1) ∧
    v1AndVF (withV12 0x00 0xFF) 0x8125 = (0x01, 0) := by decide

/-- TA-21, TA-22. -/
theorem test_sub_aliases :
    v1AndVF (withV12 9 0) 0x8115 = (0, 1) ∧ v1AndVF ((withV12 1 0).setReg VF 0x10) 0x8F15 = (1, 1) := by decide

/-- TA-23, TA-25: VY is not read. -/
theorem test_shr :
    (runWord ((base.setReg 2 5).setReg 7 0xAA) 0x8276).reg 2 = 2 ∧
    (runWord ((base.setReg 2 5).setReg 7 0xAA) 0x8276).reg VF = 1 ∧
    (runWord (base.setReg 2 0x80) 0x8206).reg 2 = 0x40 ∧ (runWord (base.setReg 2 0x80) 0x8206).reg VF = 0 := by decide

/-- TA-26, TA-27: the flag is written first, so the shift reads it. -/
theorem test_shr_vf :
    (runWord (base.setReg VF 0xFF) 0x8F06).reg VF = 0 ∧ (runWord (base.setReg VF 3) 0x8F06).reg VF = 0 := by decide

/-- TA-28, TA-29. -/
theorem test_subn :
    v1AndVF (withV12 2 1) 0x8127 = (0xFF, 0) ∧ v1AndVF (withV12 1 2) 0x8127 = (0x01, 1) := by decide

/-- TA-30, TA-31. -/
theorem test_subn_aliases :
    v1AndVF (withV12 0x44 0) 0x8117 = (0, 1) ∧ v1AndVF ((withV12 3 0).setReg VF 1) 0x8F17 = (3, 1) := by decide

/-- TA-32, TA-34. -/
theorem test_shl :
    (runWord (base.setReg 2 0x81) 0x820E).reg 2 = 2 ∧ (runWord (base.setReg 2 0x81) 0x820E).reg VF = 1 ∧
    (runWord (base.setReg 2 1) 0x820E).reg 2 = 2 ∧ (runWord (base.setReg 2 1) 0x820E).reg VF = 0 := by decide

/-- TA-35, TA-36. -/
theorem test_shl_vf :
    (runWord (base.setReg VF 0x80) 0x8F0E).reg VF = 2 ∧ (runWord (base.setReg VF 0x7F) 0x8F0E).reg VF = 0 := by decide

/-- TA-37, TA-38, with the random byte A7. -/
theorem test_rnd : (runWord base 0xC30F).reg 3 = 7 ∧ (runWord (base.setReg 3 9) 0xC300).reg 3 = 0 := by decide

/-! ## Index register and memory -/

/-- TM-1, TM-2. -/
theorem test_ld_i : (runWord base 0xA123).i = 0x123 ∧ (runWord base 0xAFFF).i = 0xFFF := by decide

/-- TM-3, TM-4, TM-6. -/
theorem test_add_i :
    (runWord ((atI 0xFFF).setReg 1 1) 0xF11E).i = 0x1000 ∧ (runWord ((atI 0xFFF0).setReg 1 0xF) 0xF11E).i = 0xFFFF ∧
    (runWord ((atI 0x300).setReg VF 5) 0xFF1E).i = 0x305 := by decide

/-- TM-5. -/
theorem test_add_i_too_large :
    let t := runWord ((atI 0xFFFF).setReg 1 1) 0xF11E
    t.fault = some ⟨.addressError, 0x200, some 0xF11E, some 0x10000⟩ ∧ t.i = 0xFFFF := by decide

/-- TM-7, TM-8, TM-9. -/
theorem test_ld_f :
    (runWord (base.setReg 10 0xA) 0xFA29).i = 0x032 ∧ (runWord (base.setReg 0 0xFF) 0xF029).i = 0x4FB ∧
    (runWord (base.setReg 0 0x10) 0xF029).i = 0x050 := by decide

/-- Memory from `a`, three bytes. -/
def three (s : State) (a : Nat) : Byte × Byte × Byte := (s.readByte a, s.readByte (a + 1), s.readByte (a + 2))

/-- TM-11, TM-14, TM-18, TM-19. -/
theorem test_ld_b :
    three (runWord ((atI 0x300).setReg 0 0xFF) 0xF033) 0x300 = (2, 5, 5) ∧
    three (runWord ((atI 0xFFD).setReg 0 0x80) 0xF033) 0xFFD = (1, 2, 8) ∧
    three (runWord { (atI 0x04F).setReg 0 0xFF with cfg := { params with fontWriteProtect := false } } 0xF033) 0x04F =
      (2, 5, 5) ∧
    three (runWord ((atI 0x050).setReg 0 0xFF) 0xF033) 0x050 = (2, 5, 5) := by decide

/-- TM-15, TM-16, TM-17. -/
theorem test_ld_b_faults :
    (runWord (atI 0xFFE) 0xF033).fault = some ⟨.addressError, 0x200, some 0xF033, some 0x1000⟩ ∧
    (runWord (atI 0x1005) 0xF033).fault = some ⟨.addressError, 0x200, some 0xF033, some 0x1005⟩ ∧
    (runWord (atI 0x04F) 0xF033).fault = some ⟨.protectedWrite, 0x200, some 0xF033, some 0x04F⟩ ∧
    (runWord (atI 0x04F) 0xF033).readByte 0x04F = 0x80 := by decide

/-- TM-20, TM-21: I is unchanged and the byte after the last is untouched. -/
theorem test_ld_mem_vx :
    let t := runWord ((((atI 0x400).setReg 0 1).setReg 1 2).setReg 2 3) 0xF255
    three t 0x400 = (1, 2, 3) ∧ t.readByte 0x403 = 0 ∧ t.i = 0x400 ∧
    three (runWord (((atI 0x400).setReg 0 0xAB).setReg 1 9) 0xF055) 0x400 = (0xAB, 0, 0) := by decide

/-- TM-22 (its last byte), TM-23, TM-24. -/
theorem test_ld_mem_vx_edges :
    (runWord ((atI 0xFF0).setReg VF 0x0F) 0xFF55).readByte 0xFFF = 0x0F ∧
    (runWord (atI 0xFF1) 0xFF55).fault = some ⟨.addressError, 0x200, some 0xFF55, some 0x1000⟩ ∧
    (runWord (atI 0) 0xF055).fault = some ⟨.protectedWrite, 0x200, some 0xF055, some 0⟩ := by decide

/-- TM-26, TM-27. -/
theorem test_ld_vx_mem :
    let t := runWord ((atI 0x300).storeBytes 0x300 [2, 5, 4]) 0xF265
    t.reg 0 = 2 ∧ t.reg 1 = 5 ∧ t.reg 2 = 4 ∧ t.reg 3 = 0 ∧ t.i = 0x300 ∧
    (runWord base 0xF065).reg 0 = 0xF0 := by decide

/-- TM-29: no register is written. -/
theorem test_ld_vx_mem_range :
    (runWord (atI 0xFF1) 0xFF65).fault = some ⟨.addressError, 0x200, some 0xFF65, some 0x1000⟩ ∧
    (runWord ((atI 0xFF1).storeBytes 0xFF1 [7]) 0xFF65).reg 0 = 0 := by decide

/-! ## Display -/

/-- A screen with one lit row 0. -/
def litRow0 (w : FbRow) : State := { base with fb := base.fb.set 0 w }

/-- TD-1: VF is unchanged. -/
theorem test_cls :
    let t := runWord ((litRow0 0x8000000000000001).setReg VF 1) 0x00E0
    t.fb = base.fb ∧ t.out.changed = true ∧ t.reg VF = 1 := by decide

/-- TD-3: glyph 0 at (60, 30) wraps in both directions. -/
theorem test_drw_wraps :
    let t := runWord (withV12 60 30) 0xD125
    [t.fb[30], t.fb[31], t.fb[0], t.fb[1], t.fb[2], t.fb[3]] = [0xF, 0x9, 0x9, 0x9, 0xF, 0] ∧ t.reg VF = 0 ∧
    t.out.changed = true := by decide

/-- TD-6 (coordinates modulo the frame), TD-7 (bit 0 is the rightmost), TD-14 (the old VF is the coordinate). -/
theorem test_drw_places_bits :
    (runWord (((atI 0x300).storeBytes 0x300 [0x80]).setReg 1 0x45 |>.setReg 2 0x25) 0xD121).fb[5] = 0x0400000000000000 ∧
    (runWord ((atI 0x300).storeBytes 0x300 [0x01]) 0xD121).fb[0] = 0x0100000000000000 ∧
    (runWord (((atI 0x300).storeBytes 0x300 [0x80]).setReg 1 2 |>.setReg VF 3) 0xDF11).pixel 3 2 = true ∧
    (runWord (((atI 0x300).storeBytes 0x300 [0x80]).setReg 1 2 |>.setReg VF 3) 0xDF11).reg VF = 0 := by decide

/-- TD-8: turning a pixel on is no collision. TD-4 on one row: turning one off is. -/
theorem test_drw_collision :
    let s (b : Byte) : State := { (atI 0x300).storeBytes 0x300 [b] with fb := base.fb.set 0 0x8000000000000000 }
    (runWord (s 0x40) 0xD121).fb[0] = 0xC000000000000000 ∧ (runWord (s 0x40) 0xD121).reg VF = 0 ∧
    (runWord (s 0x80) 0xD121).fb[0] = 0 ∧ (runWord (s 0x80) 0xD121).reg VF = 1 := by decide

/-- TD-10, TD-11, TD-12, TD-13. -/
theorem test_drw_edges :
    (runWord ((atI 0xFFF).storeBytes 0xFFF [0x80]) 0xD121).pixel 0 0 = true ∧
    (runWord (atI 0xFFF) 0xD122).fault = some ⟨.addressError, 0x200, some 0xD122, some 0x1000⟩ ∧
    (runWord (atI 0xFFFF) 0xD121).fault = some ⟨.addressError, 0x200, some 0xD121, some 0xFFFF⟩ ∧
    (runWord ((atI 0xFFFF).setReg VF 1) 0xD120).reg VF = 0 ∧
    (runWord ((atI 0xFFFF).setReg VF 1) 0xD120).out.changed = true := by decide

/-! ## Keys and timers -/

/-- One step of `s` that runs `w` at PC with these keys held. -/
def runWithKeys (keys : Word) (s : State) (w : Nat) : State := stepOn { quiet with keys := keys } (s.withFetchWord 16 w)

/-- TK-1, TK-2, TK-5. -/
theorem test_skp :
    (runWithKeys 0x0008 (base.setReg 5 3) 0xE59E).pc = 0x204 ∧
    (runWithKeys 0xFFF7 (base.setReg 5 3) 0xE59E).pc = 0x202 ∧
    (runWithKeys 0 (base.setReg 5 0x10) 0xE59E).fault = some ⟨.keyIndexRange, 0x200, some 0xE59E, some 0x10⟩ := by
  decide

/-- TK-3, TK-4, TK-5. -/
theorem test_sknp :
    (runWithKeys 0x0000 (base.setReg 5 3) 0xE5A1).pc = 0x204 ∧
    (runWithKeys 0x0008 (base.setReg 5 3) 0xE5A1).pc = 0x202 ∧
    (runWithKeys 0 (base.setReg 5 0x10) 0xE5A1).fault = some ⟨.keyIndexRange, 0x200, some 0xE5A1, some 0x10⟩ := by
  decide

/-- One step of `s` that runs `w` at PC at this time. -/
def runAt (now : Nat) (s : State) (w : Nat) : State := stepOn { quiet with now := now } (s.withFetchWord 16 w)

/-- TK-7: DT is read before the tick of the same step. -/
theorem test_ld_vx_dt :
    (runAt 10 { base with dt := 5 } 0xF007).reg 0 = 5 ∧ (runAt 10 { base with dt := 5 } 0xF007).dt = 4 := by decide

/-- TK-8, TK-9. -/
theorem test_ld_dt_vx :
    (runAt 0 (base.setReg 10 0x3C) 0xFA15).dt = 0x3C ∧ (runAt 10 (base.setReg 10 0x3C) 0xFA15).dt = 0x3B := by decide

/-- TK-10, TK-11: FX18 does not beep by itself. -/
theorem test_ld_st_vx :
    (runAt 0 (base.setReg 1 1) 0xF118).st = 1 ∧ (runAt 0 { base with st := 1 } 0xF118).st = 0 ∧
    (runAt 0 { base with st := 1 } 0xF118).out.beep = false := by decide

/-- TK-12. -/
theorem test_ld_vx_k :
    let t := runWithKeys 0x0001 ((atPc 0x20A).setReg 0 9) 0xF00A
    t.wait = some ⟨0, 0x0001⟩ ∧ t.pc = 0x20C ∧ t.reg 0 = 9 := by decide

/-- A key-wait poll. -/
def poll (x : Reg) (prev keys : Word) (now : Nat) : State :=
  stepOn { quiet with keys := keys, now := now } { base with wait := some ⟨x, prev⟩, st := 1 }

/-- TK-13, TK-14, TK-18: a held key is no edge; a release is noted; the timers tick while waiting. -/
theorem test_poll_no_edge :
    (poll 0 1 1 0).wait = some ⟨0, 1⟩ ∧ (poll 0 1 0 0).wait = some ⟨0, 0⟩ ∧ (poll 0 0 0 10).wait = some ⟨0, 0⟩ ∧
    (poll 0 0 0 10).st = 0 ∧ (poll 0 0 0 10).out.beep = true ∧ (poll 0 1 1 0).pc = 0x200 := by decide

/-- TK-15, TK-16, TK-17. -/
theorem test_poll_edge :
    (poll 0 0 1 0).reg 0 = 0 ∧ (poll 0 0 1 0).wait = none ∧ (poll 7 0 0x8030 0).reg 7 = 4 ∧
    (poll 15 0 0x0400 0).reg VF = 0x0A ∧ (poll 15 0 0x0400 0).pc = 0x200 := by decide

/-! ## Timers (P = 10, D = 10) -/

/-- DT, ST, deadline and beep after the synchronizer. -/
def ticked (dt st : Byte) (now : Nat) : Byte × Byte × Nat × Bool :=
  let t := ({ base with dt := dt, st := st } : State).timerSync now
  (t.dt, t.st, t.deadline, t.out.beep)

/-- TT-1 to TT-4, TT-12. -/
theorem test_timer_ticks :
    ticked 5 0 9 = (5, 0, 10, false) ∧ ticked 5 0 10 = (4, 0, 20, false) ∧ ticked 5 0 30 = (2, 0, 40, false) ∧
    ticked 1 0 60 = (0, 0, 70, false) ∧ ticked 5 0 0 = (5, 0, 10, false) := by decide

/-- TT-5, TT-7, TT-8, TT-9. -/
theorem test_timer_beeps :
    ticked 0 1 10 = (0, 0, 20, true) ∧ ticked 0 2 20 = (0, 0, 30, true) ∧ ticked 0 3 20 = (0, 1, 30, false) ∧
    ticked 0 0 110 = (0, 0, 120, false) := by decide

/-- TT-10, TT-11: the cap of 180 ticks, with and without resynchronisation. -/
theorem test_timer_cap :
    ticked 255 0 10010 = (75, 0, 10020, false) ∧ ticked 255 0 1800 = (75, 0, 1810, false) := by decide

/-! ## Reset and the loader -/

/-- TR-1, TR-2, S4. -/
theorem test_boot_refuses :
    boot params [] 0 = .error .malformedRom ∧ boot params (List.replicate 3585 0) 0 = .error .malformedRom :=
  ⟨State.loadRom_error _ _ (.inl rfl), State.loadRom_error _ _ (by rw [List.length_replicate]; decide)⟩

/-- TR-3, S4: the largest ROM is accepted. -/
theorem test_boot_largest :
    boot params (List.replicate 3584 0xAA) 0 =
      .ok ((State.resetAt params 0).storeBytes 0x200 (List.replicate 3584 0xAA)) :=
  State.loadRom_ok _ _ (by rw [List.length_replicate]; decide) (by rw [List.length_replicate])

/-- TR-4. -/
theorem test_boot_state :
    ∃ s, boot params [0x12, 0x00] 1000 = .ok s ∧ three s 0x200 = (0x12, 0, 0) ∧ s.readByte 0x04F = 0x80 ∧
      s.readByte 0x050 = 0 ∧ s.pc = 0x200 ∧ s.deadline = 1010 := by
  refine ⟨_, rfl, ?_⟩
  decide

/-! ## Witnesses of the obligations' hypotheses -/

/-- A state whose next step runs a placed word. -/
def ready (w : Nat) : State := { base.withFetchWord 16 w with inputs := [quiet] }

/-- A halted state. -/
def haltedState : State := { base with fault := some ⟨.stackUnderflow, 0x200, some 0x00EE, none⟩ }

theorem witness_DecodeInvertsEncode :
    (Instr.sys 0x123).wf = true ∧ (Instr.sys 0x0E1).wf = true ∧ (Instr.drw 15 15 15).wf = true := by decide

theorem witness_EncodeInvertsDecode : decode 0xD125 = some (.drw 1 2 5) ∧ decode 0x0FFF = some (.sys 0xFFF) := by decide

/-- One word for each clause: 00E0, 00EE, and the last of class 0. -/
theorem witness_ClassZeroWordsDecodeInPriority :
    (0x00E0#16).toNat < 0x1000 ∧ (0x00E0#16).toNat = 0x0E0 ∧ (0x00EE#16).toNat = 0x0EE ∧
    (0x0FFF#16).toNat < 0x1000 ∧ (0x0FFF#16).toNat ≠ 0x0E0 ∧ (0x0FFF#16).toNat ≠ 0x0EE := by decide

theorem witness_SysOnlyAdvances : (0x0E1 : Addr) ≠ 0x0E0 ∧ (0x0E1 : Addr) ≠ 0x0EE := by decide

theorem witness_StepRunsTheDecodedInstruction : Runs (ready 0xD125) (.drw 1 2 5) := by
  refine ⟨rfl, rfl, ⟨?_, ?_⟩, ?_⟩ <;> decide

/-- One state for each clause: a cycle that runs, and one that faults. -/
theorem witness_SynchronizerEndsEveryUnfaultedStep :
    (∃ u, (ready 0x6007).fault = none ∧ cycleOrPoll (ready 0x6007).receive = .next u ∧ u.fault = none) ∧
    (∃ u, (ready 0x00EE).fault = none ∧ cycleOrPoll (ready 0x00EE).receive = .next u ∧ u.fault ≠ none) := by
  refine ⟨⟨nextOf (cycleOrPoll (ready 0x6007).receive), ?_⟩, ⟨nextOf (cycleOrPoll (ready 0x00EE).receive), ?_⟩⟩ <;>
    refine ⟨rfl, rfl, ?_⟩ <;> decide

theorem witness_PlacedWordIsRunNext :
    haltedState.memWf ∧ decodeTableWord 16 0x8344 = some (.addReg 3 4) ∧
    (atPc 0x1FFF).memWf ∧ decodeTableWord 16 0x00E0 = some .cls := by decide

/-- The last even PC, and the last odd one where the alignment is not checked. -/
theorem witness_FetchedOpcodeIsBigEndian :
    ((atPc 0xFFE).pc.toNat % 2 = 0 ∧ (atPc 0xFFE).pc.toNat + 1 ≤ 0xFFF) ∧
    ({ params with fetchAlignCheck := false } : Config).fetchAlignCheck = false ∧ (0xFFD#16).toNat + 1 ≤ 0xFFF := by
  decide

/-- One state for each clause, the second with and without the alignment check. -/
theorem witness_FetchFaultsInOrder :
    ((atPc 0xFFF).fault = none ∧ (atPc 0xFFF).wait = none ∧ (atPc 0xFFF).cfg.fetchAlignCheck = true ∧
      (atPc 0xFFF).pc.toNat % 2 = 1) ∧
    ((atPc 0x1000).fault = none ∧ (atPc 0x1000).wait = none ∧
      ¬ ((atPc 0x1000).cfg.fetchAlignCheck = true ∧ (atPc 0x1000).pc.toNat % 2 = 1) ∧ (atPc 0x1000).pc.toNat > 0xFFE) ∧
    (let s := { atPc 0xFFF with cfg := { params with fetchAlignCheck := false } }
     ¬ (s.cfg.fetchAlignCheck = true ∧ s.pc.toNat % 2 = 1) ∧ s.pc.toNat > 0xFFE) := by decide

/-- A core at PC whose next word is illegal. -/
def illegalAtPc : State := base.storeBytes 0x200 [0x51, 0x21]

theorem witness_IllegalWordHaltsTheCore :
    illegalAtPc.fault = none ∧ illegalAtPc.wait = none ∧ Fetchable illegalAtPc ∧
      decode (opcodeAtPc illegalAtPc) = none := by
  refine ⟨rfl, rfl, ⟨?_, ?_⟩, ?_⟩ <;> decide

theorem witness_RaisingInstructionCommitsNothing :
    ∃ t, base.fault = none ∧ exec .ret base = .next t ∧ t.fault ≠ none := by
  refine ⟨nextOf (exec .ret base), rfl, rfl, ?_⟩
  decide

theorem witness_FaultingStepChangesOnlyTheLatch :
    ∃ t r, (ready 0x00EE).fault = none ∧ step (ready 0x00EE) = .next t ∧ t.fault = some r := by
  refine ⟨nextOf (step (ready 0x00EE)), ⟨.stackUnderflow, 0x200, some 0x00EE, none⟩, rfl, rfl, ?_⟩
  decide

theorem witness_HaltedCoreNeverChanges : haltedState.fault ≠ none := by decide

theorem witness_InstructionsChangeOnlyTheirEffects :
    ∃ t, base.fault = none ∧ exec (.drw 1 2 5) base = .next t ∧ t.fault = none := by
  refine ⟨nextOf (exec (.drw 1 2 5) base), rfl, rfl, ?_⟩
  decide

theorem witness_StepNeverWritesKeysOrParameters :
    (∃ t, step (ready 0xF00A) = .next t) ∧ ∃ t, step haltedState = .next t :=
  ⟨⟨nextOf (step (ready 0xF00A)), rfl⟩, _, rfl⟩

/-- One state for each clause, at the boundary. -/
theorem witness_CallPushesTheReturnAddress :
    ({ base with sp := 15 } : State).sp.val < 16 ∧ ({ base with sp := 16 } : State).sp.val = 16 := by decide

theorem witness_ReturnPopsTheStack :
    0 < ({ base with sp := 1 } : State).sp.val ∧ 0 < ({ base with sp := 16 } : State).sp.val ∧ base.sp.val = 0 := by
  decide

/-- Operands other than VF, and VF itself. -/
theorem witness_flag_clauses : (0 : Reg) ≠ VF ∧ (14 : Reg) ≠ VF ∧ (15 : Reg) = VF := by decide

theorem witness_RandomByteIsTheStepsInput :
    Runs (ready 0xC30F) (.rnd 3 0x0F) ∧ (ready 0xC30F).inputs = quiet :: [] := by
  refine ⟨⟨rfl, rfl, ⟨?_, ?_⟩, ?_⟩, rfl⟩ <;> decide

/-- The largest sum that fits and the smallest that does not. -/
theorem witness_AddIndexChecksSixteenBits :
    (atI 0xFFFF).i.toNat + ((atI 0xFFFF).reg 1).toNat ≤ 0xFFFF ∧
    ((atI 0xFFFF).setReg 1 1).i.toNat + (((atI 0xFFFF).setReg 1 1).reg 1).toNat > 0xFFFF := by decide

/-- The first and last address of the storing clause, the first of the range clause, the last of the font clause. -/
theorem witness_BcdStoresThreeDigits :
    (atI 0xFFD).memWf ∧ (atI 0xFFD).i.toNat + 2 ≤ 0xFFF ∧ (atI 0x050).cfg.fontWriteProtect = true ∧
    0x050 ≤ (atI 0x050).i.toNat ∧ (atI 0xFFE).i.toNat + 2 > 0xFFF ∧ (atI 0x04F).i.toNat < 0x050 := by decide

theorem witness_BlockStoreCopiesRegisters :
    (atI 0xFF0).memWf ∧ (atI 0xFF0).i.toNat + (15 : Reg).val ≤ 0xFFF ∧ 0x050 ≤ (atI 0xFF0).i.toNat ∧
    (atI 0xFF1).i.toNat + (15 : Reg).val > 0xFFF ∧ (atI 0x04F).cfg.fontWriteProtect = true ∧
    (atI 0x04F).i.toNat < 0x050 := by decide

theorem witness_BlockLoadCopiesMemory :
    (atI 0xFF0).i.toNat + (15 : Reg).val ≤ 0xFFF ∧ (atI 0xFF1).i.toNat + (15 : Reg).val > 0xFFF ∧
    (atI 0xFFF).i.toNat + (0 : Reg).val ≤ 0xFFF := by decide

/-- A step that stores: one with FX33 and one with FX55. -/
theorem witness_OnlyStoresChangeMemory :
    (let s := { (((atI 0x300).setReg 0 0xFF).withFetchWord 16 0xF033) with inputs := [quiet] }
     ∃ t, step s = .next t ∧ t.readByte 0x300 ≠ s.readByte 0x300) ∧
    (let s := { (((atI 0x300).setReg 1 0xFF).withFetchWord 16 0xF155) with inputs := [quiet] }
     ∃ t, step s = .next t ∧ t.readByte 0x301 ≠ s.readByte 0x301) := by
  refine ⟨⟨_, rfl, ?_⟩, ⟨_, rfl, ?_⟩⟩ <;> decide

/-- A sprite that ends at the last address, and one of no rows wherever I points. -/
theorem witness_DrawXorsTheSpriteOntoTheScreen :
    ((0 : Nibble).val = 0 ∨ (atI 0xFFFF).i.toNat + (0 : Nibble).val ≤ 0x1000) ∧
    ((15 : Nibble).val = 0 ∨ (atI 0xFF1).i.toNat + (15 : Nibble).val ≤ 0x1000) := by decide

theorem witness_PixelIsOneBitOfARow : 0 < 64 ∧ 63 < 64 := by decide

/-- Glyph 0 over a lit pixel (0, 0), and over a dark screen: one state for each clause. -/
theorem witness_DrawFlagsACollision :
    (∃ t, exec (.drw 1 2 5) (litRow0 0x8000000000000000) = .next t) ∧
    ((litRow0 0x8000000000000000).pixel 0 0 = true ∧ spriteBit (litRow0 0x8000000000000000) 0 5 0 0 0 0 = true) ∧
    (∃ t, exec (.drw 1 2 5) base = .next t) ∧ (∀ c r, base.pixel c r = false) := by
  refine ⟨⟨_, rfl⟩, by decide, ⟨_, rfl⟩, fun c r => ?_⟩
  simp [State.pixel, base, State.resetAt]

theorem witness_DrawOutsideMemoryRaises :
    0 < (1 : Nibble).val ∧ (atI 0x1000).i.toNat + (1 : Nibble).val - 1 > 0xFFF ∧
    (atI 0xFF2).i.toNat + (15 : Nibble).val - 1 > 0xFFF := by decide

/-- A step that changes the screen by DRW; one by CLS. -/
theorem witness_OnlyClsAndDrwWriteTheScreen :
    (∃ t, step (ready 0xD125) = .next t ∧ t.fb ≠ (ready 0xD125).fb) ∧
    (let s := { (litRow0 1).withFetchWord 16 0x00E0 with inputs := [quiet] }
     ∃ t, step s = .next t ∧ t.fb ≠ s.fb) := by
  refine ⟨⟨nextOf (step (ready 0xD125)), rfl, ?_⟩, ⟨_, rfl, ?_⟩⟩ <;> decide

theorem witness_ChangedIsReportedByClsAndDrwOnly :
    (∃ t, step (ready 0x00E0) = .next t ∧ t.out.changed = true) ∧
    (∃ t, step (ready 0x6007) = .next t ∧ t.out.changed = false) ∧ (ready 0x6007).fault = none := by
  refine ⟨⟨nextOf (step (ready 0x00E0)), rfl, ?_⟩, ⟨nextOf (step (ready 0x6007)), rfl, ?_⟩, rfl⟩ <;> decide

/-- A step that changes the stack: CALL; one that changes SP only: RET. -/
theorem witness_OnlyCallAndReturnTouchTheStack :
    (∃ t, step (ready 0x2400) = .next t ∧ t.stack ≠ (ready 0x2400).stack) ∧
    (let s := { ready 0x00EE with sp := 1 }
     ∃ t, step s = .next t ∧ t.sp ≠ s.sp) := by
  refine ⟨⟨nextOf (step (ready 0x2400)), rfl, ?_⟩, ⟨_, rfl, ?_⟩⟩ <;> decide

/-- The last value that names a key and the first that does not. -/
theorem witness_KeySkipsTestOneKey :
    ((base.setReg 5 0xF).reg 5).toNat ≤ 0xF ∧ ((base.setReg 5 0x10).reg 5).toNat > 0xF := by decide

/-- A waiting core with keys 4, 5 and 15 going down (the lowest is 4), and one with a key merely held. -/
theorem witness_KeyWaitPollTakesTheLowestNewKey :
    (let s := { base with wait := some ⟨7, 0⟩, inputs := [{ quiet with keys := 0x8030 }] }
     s.fault = none ∧ s.wait = some ⟨7, 0⟩ ∧ WentDown s.nextInput.keys 0 4 ∧
       ∀ j, j < 4 → ¬ WentDown s.nextInput.keys 0 j) ∧
    (let s := { base with wait := some ⟨7, 1⟩, inputs := [{ quiet with keys := 1 }] }
     s.fault = none ∧ s.wait = some ⟨7, 1⟩ ∧ ∀ k, k < 16 → ¬ WentDown s.nextInput.keys 1 k) := by
  simp only [WentDown]
  decide

/-- One state for each clause: FX0A enters the wait; key 0 ends it; no key is ever pressed in the next two steps. -/
theorem witness_OnlyTheKeyWaitSuspends :
    (∃ t, step (ready 0xF00A) = .next t ∧ (ready 0xF00A).wait = none ∧ t.wait ≠ none) ∧
    (let s := { base with wait := some ⟨7, 0⟩, inputs := [{ quiet with keys := 1 }] }
     ∃ t, step s = .next t ∧ s.wait = some ⟨7, 0⟩ ∧ t.wait = none) ∧
    (let s := { base with wait := some ⟨7, 1⟩, inputs := [quiet, quiet] }
     s.fault = none ∧ s.wait = some ⟨7, 1⟩ ∧ 2 ≤ s.inputs.length ∧ ∀ inp ∈ s.inputs, inp.keys = 0) := by
  refine ⟨⟨nextOf (step (ready 0xF00A)), rfl, rfl, ?_⟩, ⟨_, rfl, rfl, ?_⟩, ?_⟩ <;> decide

theorem witness_SynchronizerCountsCrossedBoundaries : base.cfg.wf = true := by decide

theorem witness_OneDecrementPerBoundary : ({ base with dt := 255, st := 1 } : State).cfg.wf = true := by decide

theorem witness_BootLoadsTheRom :
    1 ≤ (List.replicate 3584 (0xAA : Byte)).length ∧ (List.replicate 3584 (0xAA : Byte)).length ≤ 3584 ∧
    1 ≤ [(0x60 : Byte)].length ∧ [(0x60 : Byte)].length ≤ 3584 := by
  rw [List.length_replicate]
  decide

/-- A state that meets the invariant and whose step runs an instruction. -/
theorem witness_StepKeepsTheInvariant :
    let s := { base with inputs := [quiet] }
    Inv s ∧ Runs s (.sys 0) ∧ ∃ t, step s = .next t := by
  refine ⟨⟨by decide, rfl, fun _ _ _ => rfl, fun h => absurd rfl h⟩, ⟨rfl, rfl, ⟨?_, ?_⟩, ?_⟩, _, rfl⟩ <;> decide

/-- PC at its largest value, which BNNN reaches (TC-12). -/
theorem witness_StepKeepsPcInRange : PcInRange (atPc 0x10FE) ∧ ∃ t, step (atPc 0x10FE) = .next t := by
  refine ⟨⟨by decide, fun k => ?_⟩, _, rfl⟩
  simp [atPc, base, State.resetAt]

end Sys2Proof.Tests.Slice0
end

section
/-!
PROOFS. The framebuffer as bits of rows (R40): a pixel is one bit of its row, and a pixel write replaces that bit only.
-/

namespace Sys2Proof.Machine

/-- Inside the frame, a pixel is bit 63 - c of its row (R40). -/
theorem State.pixel_eq_rowBit (s : State) (c : Nat) (r : Fin 32) (hc : c < 64) :
    s.pixel c r.val = s.fb[r].getLsbD (63 - c) := by
  simp [State.pixel, hc]

/-- A row with column c written, read bit by bit (R40). -/
theorem rowBit_writeColumn (row : FbRow) (c k : Nat) (b : Bool) (hk : k < 64) :
    (if b then row ||| columnMask c else row &&& ~~~ columnMask c).getLsbD k =
      if k = 63 - c then b else row.getLsbD k := by
  cases b with
  | true =>
    simp only [if_true, BitVec.getLsbD_or, columnMask_bit c k hk]
    by_cases written : k = 63 - c <;> simp [written]
  | false =>
    simp only [Bool.false_eq_true, if_false, BitVec.getLsbD_and, BitVec.getLsbD_not, columnMask_bit c k hk, hk]
    by_cases written : k = 63 - c <;> simp [written]

/-- A bit of any row read after a pixel write (R40). -/
theorem State.rowBit_setPixel (s : State) (c : Nat) (r r' : Fin 32) (b : Bool) (k : Nat) (hc : c < 64) (hk : k < 64) :
    (s.setPixel c r.val b).fb[r'].getLsbD k =
      if r' = r ∧ k = 63 - c then b else s.fb[r'].getLsbD k := by
  have inFrame : r.val < 32 ∧ c < 64 := ⟨r.isLt, hc⟩
  simp only [State.setPixel, dif_pos inFrame, Fin.getElem_fin]
  by_cases sameRow : r' = r
  · subst sameRow
    simp only [Vector.getElem_set_self, rowBit_writeColumn _ _ _ _ hk, true_and]
  · have otherIndex : r.val ≠ r'.val := fun e => sameRow (Fin.ext e.symm)
    simp only [Vector.getElem_set_ne _ _ otherIndex, sameRow, false_and, if_false]

/-- Settles O40: the read is the pixel's definition, the write is the rule for a row's bits after a pixel write. -/
theorem pixelIsOneBitOfARow : Obligations.PixelIsOneBitOfARow := by
  intro s c r b hc
  exact ⟨s.pixel_eq_rowBit c r hc, fun r' k hk => s.rowBit_setPixel c r r' b k hc hk⟩

end Sys2Proof.Machine
end

section
/-!
PROOFS. The byte order of a fetched opcode (R73).
-/

namespace Sys2Proof.Machine

/-- Settles O9: the passing checks make PC fetchable, so the fetch answers the word at PC, whose high byte is the
byte at the lower address. -/
theorem fetchedOpcodeIsBigEndian : Obligations.FetchedOpcodeIsBigEndian := by
  intro s aligned inRange
  have fetched : s.fetch = .ok (s.readWord s.pc.toNat) := by
    rw [s.fetch_ok ⟨aligned, inRange⟩, opcodeAtPc_eq]
  exact ⟨s.readWord s.pc.toNat, fetched, wordOfBytes_toNat _ _⟩

end Sys2Proof.Machine
end

section
/-!
PROOFS. Control transfer without the stack: SYS, the two jumps and the byte skips (R160 to R169).
-/

namespace Sys2Proof.Machine

/-- A number is a word of an instruction when it is the encoding's value and the encoding decodes back (R102, R104). -/
theorem isWordOf_of_encode {w : Nat} {i : Instr} (value : (encode i).toNat = w) (decodes : decode (encode i) = some i) :
    IsWordOf w i := by
  rw [IsWordOf, ← value, BitVec.ofNat_toNat, BitVec.setWidth_eq, decodes]

/-! ## Decoding the encoded words (R104, R105) -/

/-- The address can be read back from the word, so different addresses make different words. -/
theorem packNNN_ne (c : BitVec 4) {nnn a : Addr} (h : nnn ≠ a) : packNNN c nnn ≠ packNNN c a := by
  intro sameWord
  have sameField : opNNN (packNNN c nnn) = opNNN (packNNN c a) := congrArg opNNN sameWord
  exact h (by simpa only [opNNN_packNNN] using sameField)

/-- A class-0 word is SYS unless it is that of CLS or RET (R105). -/
theorem decode_encode_sys (nnn : Addr) (notCls : nnn ≠ 0x0E0) (notRet : nnn ≠ 0x0EE) :
    decode (encode (.sys nnn)) = some (.sys nnn) := by
  have wordNotCls : packNNN 0x0#4 nnn ≠ 0x00E0#16 := packNNN_ne 0x0#4 notCls
  have wordNotRet : packNNN 0x0#4 nnn ≠ 0x00EE#16 := packNNN_ne 0x0#4 notRet
  simp [encode, decode, decodeClass0, wordNotCls, wordNotRet]

theorem decode_encode_jp (nnn : Addr) : decode (encode (.jp nnn)) = some (.jp nnn) := by
  simp [encode, decode]

theorem decode_encode_jpV0 (nnn : Addr) : decode (encode (.jpV0 nnn)) = some (.jpV0 nnn) := by
  simp [encode, decode]

theorem decode_encode_seByte (x : Reg) (nn : Byte) : decode (encode (.seByte x nn)) = some (.seByte x nn) := by
  simp [encode, decode]

theorem decode_encode_sneByte (x : Reg) (nn : Byte) : decode (encode (.sneByte x nn)) = some (.sneByte x nn) := by
  simp [encode, decode]

/-! ## Targets and frames -/

theorem addrWord_toNat (nnn : Addr) : (addrWord nnn).toNat = nnn.toNat :=
  BitVec.toNat_setWidth_of_le (by decide)

/-- The sum of an address and a byte is at most 0x10FE, so it fits PC (R164). -/
theorem offsetTarget_toNat (nnn : Addr) (b : Byte) : (offsetTarget nnn b).toNat = nnn.toNat + b.toNat := by
  have := nnn.isLt
  have := b.isLt
  exact Nat.mod_eq_of_lt (by omega)

/-- The fetch increment writes nothing but PC: it is the skip whose condition fails. -/
theorem State.advance_keeps (s : State) : Keeps {} s s.advance :=
  s.skip_keeps false

/-- A jump writes nothing but PC. -/
theorem State.jump_keeps (s : State) (w : Word) : Keeps {} s (s.jump w) where
  regs _ _ := rfl
  mem _ _ := rfl
  i _ := rfl
  stack _ := ⟨rfl, rfl⟩
  dt _ := rfl
  st _ := rfl
  fb _ := rfl
  wait _ := rfl
  out := rfl
  fault := rfl
  keys := rfl
  deadline := rfl
  cfg := rfl
  inputs := ⟨rfl, rfl, rfl, rfl⟩

/-! ## The obligations -/

/-- Settles O18: class-0 priority for the word, and the fetch increment alone for the effect. -/
theorem sysOnlyAdvances : Obligations.SysOnlyAdvances := by
  refine ⟨fun nnn notCls notRet => ?_, fun nnn s => ?_⟩
  · exact isWordOf_of_encode (by simp [encode, packNNN_toNat]) (decode_encode_sys nnn notCls notRet)
  · exact ⟨s.advance, rfl, s.advance_pc, s.advance_keeps⟩

/-- Settles O19: the effect is a jump to the address widened to PC's 16 bits. -/
theorem jumpSetsPc : Obligations.JumpSetsPc := by
  intro nnn s
  have word : IsWordOf (0x1000 + nnn.toNat) (.jp nnn) :=
    isWordOf_of_encode (by simp [encode, packNNN_toNat]) (decode_encode_jp nnn)
  exact ⟨word, s.jump (addrWord nnn), rfl, addrWord_toNat nnn, s.jump_keeps _⟩

/-- Settles O20: the effect is a jump to a sum that fits PC without reduction. -/
theorem jumpV0AddsV0 : Obligations.JumpV0AddsV0 := by
  intro nnn s
  have word : IsWordOf (0xB000 + nnn.toNat) (.jpV0 nnn) :=
    isWordOf_of_encode (by simp [encode, packNNN_toNat]) (decode_encode_jpV0 nnn)
  exact ⟨word, s.jump (offsetTarget nnn (s.reg 0)), rfl, offsetTarget_toNat nnn (s.reg 0), s.jump_keeps _⟩

/-- Settles O23: both effects are the skip of R169, under the condition and under its opposite. -/
theorem byteSkipsCompareVxWithNn : Obligations.ByteSkipsCompareVxWithNn := by
  intro x nn s
  refine ⟨?_, ?_, ?_, ?_⟩
  · exact isWordOf_of_encode (by simp [encode, packXNN_toNat]) (decode_encode_seByte x nn)
  · exact isWordOf_of_encode (by simp [encode, packXNN_toNat]) (decode_encode_sneByte x nn)
  · have pc : (s.advance.skipIf (s.reg x == nn)).pc = if s.reg x = nn then s.pc + 4 else s.pc + 2 := by
      simp only [State.skip_pc, beq_iff_eq]
    exact ⟨_, rfl, pc, s.skip_keeps _⟩
  · have pc : (s.advance.skipIf (s.reg x != nn)).pc = if s.reg x = nn then s.pc + 2 else s.pc + 4 := by
      simp only [State.skip_pc, bne_iff_ne, ite_not]
    exact ⟨_, rfl, pc, s.skip_keeps _⟩

end Sys2Proof.Machine
end

section
/-!
PROOFS. Register loads, the byte addition and the bitwise operations: one register write and no flag (R190 to R195).
-/

namespace Sys2Proof.Machine

/-! ## Decoding the encoded words (R104) -/

theorem decode_encode_ldByte (x : Reg) (nn : Byte) : decode (encode (.ldByte x nn)) = some (.ldByte x nn) := by
  simp [encode, decode]

theorem decode_encode_addByte (x : Reg) (nn : Byte) : decode (encode (.addByte x nn)) = some (.addByte x nn) := by
  simp [encode, decode]

/-- The value of a class-8 word, its sub-operation first (R102). -/
theorem packXYN_class8_toNat (x y : Reg) (n : Nibble) :
    (packXYN 0x8#4 x y n).toNat = 0x8000 + n.val + x.val * 0x100 + y.val * 0x10 := by
  rw [packXYN_toNat, BitVec.toNat_ofNat]
  omega

/-- A class-8 word goes to the class's own table (R104). -/
theorem decode_packXYN_class8 (x y : Reg) (n : Nibble) :
    decode (packXYN 0x8#4 x y n) = decodeClass8 (packXYN 0x8#4 x y n) := by
  simp [decode]

theorem decode_encode_ldReg (x y : Reg) : decode (encode (.ldReg x y)) = some (.ldReg x y) := by
  simp [encode, decode_packXYN_class8, decodeClass8]

theorem decode_encode_orReg (x y : Reg) : decode (encode (.orReg x y)) = some (.orReg x y) := by
  simp [encode, decode_packXYN_class8, decodeClass8]

theorem decode_encode_andReg (x y : Reg) : decode (encode (.andReg x y)) = some (.andReg x y) := by
  simp [encode, decode_packXYN_class8, decodeClass8]

theorem decode_encode_xorReg (x y : Reg) : decode (encode (.xorReg x y)) = some (.xorReg x y) := by
  simp [encode, decode_packXYN_class8, decodeClass8]

/-! ## The shared effect -/

/-- An instruction that runs as one register write and the fetch increment leaves the value in VX, PC at the next
instruction and everything else alone. -/
theorem exec_writes_reg {i : Instr} {s : State} {x : Reg} {b : Byte}
    (run : exec i s = .next (s.setReg x b).advance) :
    ∃ t, exec i s = .next t ∧ t.reg x = b ∧ t.pc = s.pc + 2 ∧ Keeps { regs := [x] } s t :=
  ⟨_, run, s.reg_setReg_same x b, rfl, s.setReg_keeps x b⟩

/-! ## The obligations -/

/-- Settles O25: both loads are one register write, of the immediate and of VY. -/
theorem loadsWriteVx : Obligations.LoadsWriteVx := by
  intro x y nn s
  refine ⟨?_, ?_, exec_writes_reg rfl, exec_writes_reg rfl⟩
  · exact isWordOf_of_encode (by simp [encode, packXNN_toNat]) (decode_encode_ldByte x nn)
  · exact isWordOf_of_encode (packXYN_class8_toNat x y 0) (decode_encode_ldReg x y)

/-- Settles O26: the byte written is the sum of bit vectors, which is the sum modulo 256. -/
theorem addByteWrapsWithoutFlag : Obligations.AddByteWrapsWithoutFlag := by
  intro x nn s
  have word : IsWordOf (0x7000 + x.val * 0x100 + nn.toNat) (.addByte x nn) :=
    isWordOf_of_encode (by simp [encode, packXNN_toNat]) (decode_encode_addByte x nn)
  obtain ⟨t, run, sum, pc, keeps⟩ := exec_writes_reg (i := .addByte x nn) (s := s) rfl
  exact ⟨word, t, run, by rw [sum, BitVec.toNat_add], pc, keeps⟩

/-- Settles O27: each operation writes the operation of the two bytes, whose bits are the operation of their bits. -/
theorem logicWorksBitwise : Obligations.LogicWorksBitwise := by
  intro x y s
  refine ⟨?_, ?_, ?_, ?_, ?_, ?_⟩
  · exact isWordOf_of_encode (packXYN_class8_toNat x y 1) (decode_encode_orReg x y)
  · exact isWordOf_of_encode (packXYN_class8_toNat x y 2) (decode_encode_andReg x y)
  · exact isWordOf_of_encode (packXYN_class8_toNat x y 3) (decode_encode_xorReg x y)
  · obtain ⟨t, run, value, pc, keeps⟩ := exec_writes_reg (i := .orReg x y) (s := s) rfl
    exact ⟨t, run, fun k _ => by rw [value, BitVec.getLsbD_or], pc, keeps⟩
  · obtain ⟨t, run, value, pc, keeps⟩ := exec_writes_reg (i := .andReg x y) (s := s) rfl
    exact ⟨t, run, fun k _ => by rw [value, BitVec.getLsbD_and], pc, keeps⟩
  · obtain ⟨t, run, value, pc, keeps⟩ := exec_writes_reg (i := .xorReg x y) (s := s) rfl
    exact ⟨t, run, fun k _ => by rw [value, BitVec.getLsbD_xor], pc, keeps⟩

end Sys2Proof.Machine
end

section
/-!
PROOFS. The instructions that set I and cannot fault: the address load and the glyph address (R230, R232).
-/

namespace Sys2Proof.Machine

/-! ## Decoding the encoded words (R104) -/

theorem decode_encode_ldI (nnn : Addr) : decode (encode (.ldI nnn)) = some (.ldI nnn) := by
  simp [encode, decode]

theorem decode_encode_ldF (x : Reg) : decode (encode (.ldF x)) = some (.ldF x) := by
  simp [encode, decode, decodeClassF]

/-- The value of a class-F word, its sub-operation first (R102). -/
theorem packXNN_classF_toNat (x : Reg) (nn : Byte) :
    (packXNN 0xF#4 x nn).toNat = 0xF000 + nn.toNat + x.val * 0x100 := by
  rw [packXNN_toNat, BitVec.toNat_ofNat]
  omega

/-! ## The glyph address and the shared effect -/

/-- Five times a byte is at most 0x4FB, so the glyph address fits I (R232). -/
theorem glyphAddr_toNat (b : Byte) : (glyphAddr b).toNat = b.toNat * 5 := by
  have := b.isLt
  exact Nat.mod_eq_of_lt (by omega)

/-- An instruction that runs as one write of I and the fetch increment leaves the value in I, PC at the next
instruction and everything else alone. -/
theorem exec_writes_index {i : Instr} {s : State} {w : Word} (run : exec i s = .next (s.setI w).advance) :
    ∃ t, exec i s = .next t ∧ t.i = w ∧ t.pc = s.pc + 2 ∧ Keeps { i := true } s t :=
  ⟨_, run, rfl, rfl, s.setI_keeps w⟩

/-! ## The obligations -/

/-- Settles O33: the value written to I is the address widened to I's 16 bits. -/
theorem loadIndexSetsI : Obligations.LoadIndexSetsI := by
  intro nnn s
  have word : IsWordOf (0xA000 + nnn.toNat) (.ldI nnn) :=
    isWordOf_of_encode (by simp [encode, packNNN_toNat]) (decode_encode_ldI nnn)
  obtain ⟨t, run, index, pc, keeps⟩ := exec_writes_index (i := .ldI nnn) (s := s) rfl
  exact ⟨word, t, run, by rw [index, addrWord_toNat], pc, keeps⟩

/-- Settles O35: the value written to I is a product that fits 16 bits, so no VX is reduced. -/
theorem glyphAddressIsFiveTimesVx : Obligations.GlyphAddressIsFiveTimesVx := by
  intro x s
  have word : IsWordOf (0xF029 + x.val * 0x100) (.ldF x) :=
    isWordOf_of_encode (packXNN_classF_toNat x 0x29#8) (decode_encode_ldF x)
  obtain ⟨t, run, index, pc, keeps⟩ := exec_writes_index (i := .ldF x) (s := s) rfl
  exact ⟨word, t, run, by rw [index, glyphAddr_toNat], pc, keeps⟩

end Sys2Proof.Machine
end

section
/-!
PROOFS. The screen clear: every row zero, the change reported, no flag (R260).
-/

namespace Sys2Proof.Machine

/-- The word of CLS is the first exact pattern of class 0 (R105). -/
theorem decode_encode_cls : decode (encode .cls) = some .cls := by
  simp [encode, decode, decodeClass0, opClass]

/-- A cleared screen has no lit row (R260). -/
theorem State.clearScreen_row (s : State) (r : Fin 32) : s.clearScreen.fb[r] = 0 := by
  rw [State.clearScreen_fb, Fin.getElem_fin, Vector.getElem_replicate]

/-- The clear writes the framebuffer, the changed output and PC, and no register (R260, R266). -/
theorem State.clearScreen_keeps (s : State) :
    Keeps { fb := true, changed := true } s s.clearScreen.reportChanged.advance where
  regs _ _ := rfl
  mem _ _ := rfl
  i _ := rfl
  stack _ := ⟨rfl, rfl⟩
  dt _ := rfl
  st _ := rfl
  fb unnamed := nomatch unnamed
  wait _ := rfl
  out := rfl
  fault := rfl
  keys := rfl
  deadline := rfl
  cfg := rfl
  inputs := ⟨rfl, rfl, rfl, rfl⟩

/-- Settles O41: the effect is a clear, a report and the fetch increment, and neither of the last two writes a row. -/
theorem clsClearsEveryPixel : Obligations.ClsClearsEveryPixel := by
  have word : IsWordOf 0x00E0 .cls := isWordOf_of_encode rfl decode_encode_cls
  refine ⟨word, fun s => ⟨s.clearScreen.reportChanged.advance, rfl, fun r => ?_, rfl, ?_, s.clearScreen_keeps⟩⟩
  · rw [State.advance_fb, State.reportChanged_fb, s.clearScreen_row r]
  · rw [State.advance_pc, State.reportChanged_pc, State.clearScreen_pc]

end Sys2Proof.Machine
end

section
/-!
PROOFS. The decoder and the encoder undo each other, and the words that neither of them names (R102, R104, R105, R107).
-/

namespace Sys2Proof.Machine

/-! ## Decoding an encoded instruction -/

/-- A class-F word goes to the class's own table (R104). -/
theorem decode_packXNN_classF (x : Reg) (nn : Byte) :
    decode (packXNN 0xF#4 x nn) = decodeClassF (packXNN 0xF#4 x nn) := by
  simp [decode]

/-- The encoding of every well-formed instruction decodes to it. Only SYS needs well-formedness: the two words that
class 0 gives to CLS and RET are not its own (R105). -/
theorem decode_encode (i : Instr) (wf : i.wf = true) : decode (encode i) = some i := by
  cases i with
  | cls => exact decode_encode_cls
  | ret => simp [encode, decode, decodeClass0, opClass]
  | sys nnn =>
    simp only [Instr.wf, sysAddrFree, Bool.and_eq_true, bne_iff_ne] at wf
    obtain ⟨notCls, notRet⟩ := wf
    exact decode_encode_sys nnn notCls notRet
  | jp | call | ldI | jpV0 => simp [encode, decode]
  | seByte | sneByte | ldByte | addByte | rnd => simp [encode, decode]
  | seReg | sneReg | drw => simp [encode, decode]
  | ldReg | orReg | andReg | xorReg | addReg | subReg | shr | subnReg | shl =>
    simp [encode, decode_packXYN_class8, decodeClass8]
  | skp | sknp => simp [encode, decode, decodeClassE]
  | ldVxDt | ldVxK | ldDtVx | ldStVx | addI | ldF | ldB | ldMemVx | ldVxMem =>
    simp [encode, decode_packXNN_classF, decodeClassF]

/-- A decodable word in front of any bytes decodes to its instruction and leaves them (R73, R104). -/
theorem decodeBytes_of_decode {op : Word} {i : Instr} (decodes : decode op = some i) (rest : List Byte) :
    decodeBytes (bytesOfWord op ++ rest) = .ok (i, rest) := by
  simp [bytesOfWord, decodeBytes, decodes]

/-- Settles O2: decoding undoes encoding on the word, and so on the word's two bytes. -/
theorem decodeInvertsEncode : Obligations.DecodeInvertsEncode := by
  intro i rest wf
  exact ⟨decode_encode i wf, decodeBytes_of_decode (decode_encode i wf) rest⟩

/-- Settles O1: each word by evaluation of the decoder. -/
theorem decodesWordsWrittenFromTheSpec : Obligations.DecodesWordsWrittenFromTheSpec := by
  unfold Obligations.DecodesWordsWrittenFromTheSpec
  decide

/-! ## A word from its fields (R101, R102) -/

/-- The class and the twelve bits below it make the word again. -/
theorem packNNN_opNNN {op : Word} {c : BitVec 4} (cls : (opClass op).toNat = c.toNat) : packNNN c (opNNN op) = op := by
  apply BitVec.eq_of_toNat_eq
  rw [opClass_toNat] at cls
  rw [packNNN_toNat, opNNN_toNat]
  omega

/-- So do the class, X and the low byte. -/
theorem packXNN_opX {op : Word} {c : BitVec 4} {nn : Byte} (cls : (opClass op).toNat = c.toNat)
    (low : (opNN op).toNat = nn.toNat) : packXNN c (opX op) nn = op := by
  apply BitVec.eq_of_toNat_eq
  rw [opClass_toNat] at cls
  rw [opNN_toNat] at low
  rw [packXNN_toNat, opX_val]
  omega

/-- So do the class and the three nibbles. -/
theorem packXYN_opX_opY {op : Word} {c : BitVec 4} {n : Nibble} (cls : (opClass op).toNat = c.toNat)
    (low : (opN op).val = n.val) : packXYN c (opX op) (opY op) n = op := by
  apply BitVec.eq_of_toNat_eq
  rw [opClass_toNat] at cls
  rw [opN_val] at low
  rw [packXYN_toNat, opX_val, opY_val]
  omega

/-! ## Encoding a decoded word -/

/-- The instruction is the one that an accepted word stands for: well formed, and encoded as that word. -/
def StandsFor (op : Word) (i : Instr) : Prop := i.wf = true ∧ encode i = op

theorem standsFor_decodeClass0 {op : Word} (cls : (opClass op).toNat = 0) : StandsFor op (decodeClass0 op) := by
  have word : packNNN 0x0#4 (opNNN op) = op := packNNN_opNNN cls
  unfold decodeClass0
  split
  · next isCls => exact ⟨rfl, isCls.symm⟩
  · split
    · next isRet => exact ⟨rfl, isRet.symm⟩
    · next notCls notRet =>
      have free : ∀ a : Addr, op ≠ packNNN 0x0#4 a → opNNN op ≠ a := fun a other e => other (by rw [← e, word])
      refine ⟨?_, word⟩
      simp only [Instr.wf, sysAddrFree, Bool.and_eq_true, bne_iff_ne]
      exact ⟨free 0x0E0#12 notCls, free 0x0EE#12 notRet⟩

theorem standsFor_decodeClass8 {op : Word} {i : Instr} (cls : (opClass op).toNat = 8)
    (decodes : decodeClass8 op = some i) : StandsFor op i := by
  unfold decodeClass8 at decodes
  split at decodes
  case h_10 => cases decodes
  all_goals next sub =>
    cases decodes
    exact ⟨rfl, packXYN_opX_opY cls sub⟩

theorem standsFor_decodeClassE {op : Word} {i : Instr} (cls : (opClass op).toNat = 14)
    (decodes : decodeClassE op = some i) : StandsFor op i := by
  unfold decodeClassE at decodes
  split at decodes
  case h_3 => cases decodes
  all_goals next sub =>
    cases decodes
    exact ⟨rfl, packXNN_opX cls sub⟩

theorem standsFor_decodeClassF {op : Word} {i : Instr} (cls : (opClass op).toNat = 15)
    (decodes : decodeClassF op = some i) : StandsFor op i := by
  unfold decodeClassF at decodes
  split at decodes
  case h_10 => cases decodes
  all_goals next sub =>
    cases decodes
    exact ⟨rfl, packXNN_opX cls sub⟩

/-- A register pair with a zero low nibble, classes 5 and 9. -/
theorem standsFor_of_pair {op : Word} {c : BitVec 4} {i j : Instr} (cls : (opClass op).toNat = c.toNat)
    (wf : j.wf = true) (word : encode j = packXYN c (opX op) (opY op) 0)
    (decodes : (if opN op = 0 then some j else none) = some i) :
    StandsFor op i := by
  split at decodes
  · next low =>
    cases decodes
    exact ⟨wf, word.trans (packXYN_opX_opY cls (congrArg Fin.val low))⟩
  · cases decodes

/-- Settles O3, class by class (alternative n of the decoder is class n - 1): the fields that a class's instruction
holds are all the bits of the word. -/
theorem encodeInvertsDecode : Obligations.EncodeInvertsDecode := by
  intro op i decodes
  unfold decode at decodes
  split at decodes
  case h_1 cls =>
    cases decodes
    exact standsFor_decodeClass0 cls
  case h_6 cls => exact standsFor_of_pair (c := 0x5#4) cls rfl rfl decodes
  case h_9 cls => exact standsFor_decodeClass8 cls decodes
  case h_10 cls => exact standsFor_of_pair (c := 0x9#4) cls rfl rfl decodes
  case h_14 cls =>
    cases decodes
    exact ⟨rfl, packXYN_opX_opY cls rfl⟩
  case h_15 cls => exact standsFor_decodeClassE cls decodes
  case h_16 cls => exact standsFor_decodeClassF cls decodes
  case h_17 => cases decodes
  case h_2 cls | h_3 cls | h_11 cls | h_12 cls =>
    cases decodes
    exact ⟨rfl, packNNN_opNNN cls⟩
  case h_4 cls | h_5 cls | h_7 cls | h_8 cls | h_13 cls =>
    cases decodes
    exact ⟨rfl, packXNN_opX cls rfl⟩

/-! ## The illegal words (R107) -/

/-- Class 8 has no sub-operation 8 to D or F. -/
theorem decodeClass8_eq_none (op : Word) :
    decodeClass8 op = none ↔ op.toNat % 16 ∈ [0x8, 0x9, 0xA, 0xB, 0xC, 0xD, 0xF] := by
  rw [← opN_val]
  unfold decodeClass8
  split
  case h_10 =>
    have := (opN op).isLt
    simp only [imp_false] at *
    simp only [List.mem_cons, List.not_mem_nil, or_false, true_iff]
    omega
  all_goals next sub => simp [sub]

theorem decodeClassE_eq_none (op : Word) : decodeClassE op = none ↔ op.toNat % 256 ∉ [0x9E, 0xA1] := by
  rw [← opNN_toNat]
  unfold decodeClassE
  split
  case h_3 no9E noA1 => simpa using ⟨no9E, noA1⟩
  all_goals next sub => simp [sub]

theorem decodeClassF_eq_none (op : Word) :
    decodeClassF op = none ↔ op.toNat % 256 ∉ [0x07, 0x0A, 0x15, 0x18, 0x1E, 0x29, 0x33, 0x55, 0x65] := by
  rw [← opNN_toNat]
  unfold decodeClassF
  split
  case h_10 =>
    simp only [imp_false] at *
    simp [*]
  all_goals next sub => simp [sub]

/-- Classes 5 and 9 accept a zero low nibble only. -/
theorem pair_eq_none (op : Word) (i : Instr) :
    (if opN op = 0 then some i else none) = none ↔ op.toNat % 16 ≠ 0 := by
  rw [← opN_val, ite_eq_right_iff]
  simp only [reduceCtorEq, imp_false]
  exact not_congr Fin.ext_iff

/-- Settles O4: the classes that reject nothing drop out, the other five reject what their own tables do not name. -/
theorem illegalWordsAreExactlyThese : Obligations.IllegalWordsAreExactlyThese := by
  intro op
  rw [← opClass_toNat]
  unfold decode
  split
  case h_6 cls => simp only [cls, pair_eq_none]; simp
  case h_9 cls => simp only [cls, decodeClass8_eq_none]; simp
  case h_10 cls => simp only [cls, pair_eq_none]; simp
  case h_15 cls => simp only [cls, decodeClassE_eq_none]; simp
  case h_16 cls => simp only [cls, decodeClassF_eq_none]; simp
  case h_17 =>
    have := (opClass op).isLt
    simp only [imp_false] at *
    omega
  all_goals next cls => simp [cls]

/-! ## Class 0 (R105) -/

/-- A word below 0x1000 is in class 0. -/
theorem decode_of_lt {op : Word} (small : op.toNat < 0x1000) : decode op = some (decodeClass0 op) := by
  have cls : (opClass op).toNat = 0 := by
    rw [opClass_toNat]
    omega
  simp [decode, cls]

/-- Settles O5: the tests of class 0 in their order. -/
theorem classZeroWordsDecodeInPriority : Obligations.ClassZeroWordsDecodeInPriority := by
  intro op small
  rw [decode_of_lt small]
  refine ⟨fun isCls => ?_, fun isRet => ?_, fun notCls notRet => ⟨opNNN op, ?_, ?_⟩⟩
  · rw [show op = 0x00E0#16 from BitVec.eq_of_toNat_eq isCls]
    rfl
  · rw [show op = 0x00EE#16 from BitVec.eq_of_toNat_eq isRet]
    rfl
  · rw [opNNN_toNat, Nat.mod_eq_of_lt small]
  · have neCls : op ≠ 0x00E0#16 := fun e => notCls (congrArg BitVec.toNat e)
    have neRet : op ≠ 0x00EE#16 := fun e => notRet (congrArg BitVec.toNat e)
    rw [decodeClass0, if_neg neCls, if_neg neRet]

end Sys2Proof.Machine
end

section
/-!
PROOFS. What running an instruction can do, said once for all 35: it raises a fault of its own and commits nothing, or
it commits within its listed effects (R136, and the tables of R33, R51 and R77).
-/

namespace Sys2Proof.Machine

/-! ## The instructions that can fault, case by case -/

theorem exec_ret_of_pos {s : State} (live : 0 < s.sp.val) : exec .ret s = .next (s.pop live) := by
  simp only [exec, execRet, dif_pos live]

theorem exec_ret_of_zero {s : State} (empty : s.sp.val = 0) :
    exec .ret s = .next (s.raise .ret .stackUnderflow none) := by
  simp only [exec, execRet, dif_neg (Nat.not_lt.2 empty.le)]

theorem exec_call_of_lt {nnn : Addr} {s : State} (room : s.sp.val < 16) :
    exec (.call nnn) s = .next ((s.push (s.pc + 2) room).jump (addrWord nnn)) := by
  simp only [exec, execCall, dif_pos room]

theorem exec_call_of_full {nnn : Addr} {s : State} (full : s.sp.val = 16) :
    exec (.call nnn) s = .next (s.raise (.call nnn) .stackOverflow none) := by
  simp only [exec, execCall, dif_neg (Nat.not_lt.2 full.ge)]

theorem exec_addI_of_le {x : Reg} {s : State} (fits : s.iAddr + (s.reg x).toNat ≤ 0xFFFF) :
    exec (.addI x) s = .next (s.setI (BitVec.ofNat 16 (s.iAddr + (s.reg x).toNat))).advance := by
  simp only [exec, execAddI, if_neg (Nat.not_lt.2 fits)]

theorem exec_addI_of_gt {x : Reg} {s : State} (large : s.iAddr + (s.reg x).toNat > 0xFFFF) :
    exec (.addI x) s = .next (s.raise (.addI x) .addressError (some (s.iAddr + (s.reg x).toNat))) := by
  simp only [exec, execAddI, if_pos large]

theorem exec_skp_of_key {x : Reg} {s : State} {k : Nat} (key : keyIndex (s.reg x) = some k) :
    exec (.skp x) s = .next (s.advance.skipIf (s.keyHeld k)) := by
  simp only [exec, execSkp, key]

theorem exec_skp_of_noKey {x : Reg} {s : State} (noKey : keyIndex (s.reg x) = none) :
    exec (.skp x) s = .next (s.raise (.skp x) .keyIndexRange (some (s.reg x).toNat)) := by
  simp only [exec, execSkp, noKey]

theorem exec_sknp_of_key {x : Reg} {s : State} {k : Nat} (key : keyIndex (s.reg x) = some k) :
    exec (.sknp x) s = .next (s.advance.skipIf (!s.keyHeld k)) := by
  simp only [exec, execSknp, key]

theorem exec_sknp_of_noKey {x : Reg} {s : State} (noKey : keyIndex (s.reg x) = none) :
    exec (.sknp x) s = .next (s.raise (.sknp x) .keyIndexRange (some (s.reg x).toNat)) := by
  simp only [exec, execSknp, noKey]

theorem exec_ldB_of_passed {x : Reg} {s : State} (passed : storeCheck s.cfg s.iAddr 3 = none) :
    exec (.ldB x) s = .next (s.storeBytes s.iAddr (bcdDigits (s.reg x))).advance := by
  simp only [exec, execLdB, passed]

theorem exec_ldB_of_failed {x : Reg} {s : State} {k : FaultKind} {a : Nat}
    (failed : storeCheck s.cfg s.iAddr 3 = some (k, a)) : exec (.ldB x) s = .next (s.raise (.ldB x) k (some a)) := by
  simp only [exec, execLdB, failed]

theorem exec_ldMemVx_of_passed {x : Reg} {s : State} (passed : storeCheck s.cfg s.iAddr (x.val + 1) = none) :
    exec (.ldMemVx x) s = .next (s.storeBytes s.iAddr (s.regsUpTo x)).advance := by
  simp only [exec, execLdMemVx, passed]

theorem exec_ldMemVx_of_failed {x : Reg} {s : State} {k : FaultKind} {a : Nat}
    (failed : storeCheck s.cfg s.iAddr (x.val + 1) = some (k, a)) :
    exec (.ldMemVx x) s = .next (s.raise (.ldMemVx x) k (some a)) := by
  simp only [exec, execLdMemVx, failed]

theorem exec_ldVxMem_of_passed {x : Reg} {s : State} (passed : loadCheck s.iAddr (x.val + 1) = none) :
    exec (.ldVxMem x) s = .next (s.loadRegs s.iAddr (x.val + 1)).advance := by
  simp only [exec, execLdVxMem, passed]

theorem exec_ldVxMem_of_failed {x : Reg} {s : State} {k : FaultKind} {a : Nat}
    (failed : loadCheck s.iAddr (x.val + 1) = some (k, a)) :
    exec (.ldVxMem x) s = .next (s.raise (.ldVxMem x) k (some a)) := by
  simp only [exec, execLdVxMem, failed]

/-- The screen and the collision flag after the sprite of a draw, its corner and its rows taken from `s` (R261). -/
def State.drawn (s : State) (x y : Reg) (n : Nibble) : DrawState :=
  drawRows ((s.reg x).toNat % 64) n.val s.iAddr ((s.reg y).toNat % 32) { state := s, hit := false }

theorem exec_drw_of_passed {x y : Reg} {n : Nibble} {s : State} (passed : loadCheck s.iAddr n.val = none) :
    exec (.drw x y n) s = .next ((s.drawn x y n).state.setFlag (s.drawn x y n).hit).reportChanged.advance := by
  simp only [exec, execDrw, passed, State.drawn]

theorem exec_drw_of_failed {x y : Reg} {n : Nibble} {s : State} {k : FaultKind} {a : Nat}
    (failed : loadCheck s.iAddr n.val = some (k, a)) :
    exec (.drw x y n) s = .next (s.raise (.drw x y n) k (some a)) := by
  simp only [exec, execDrw, failed]

/-! ## Frames -/

/-- A push and a jump write the stack, SP and PC. -/
theorem State.push_jump_keeps (s : State) (w target : Word) (room : s.sp.val < 16) :
    Keeps { stack := true } s ((s.push w room).jump target) := by
  constructor
  · exact fun _ _ => rfl
  · exact fun _ _ => rfl
  all_goals simp

/-- A pop writes SP and PC. -/
theorem State.pop_keeps (s : State) (live : 0 < s.sp.val) : Keeps { stack := true } s (s.pop live) := by
  constructor
  · exact fun _ _ => rfl
  · exact fun _ _ => rfl
  all_goals simp

/-- Entering the key wait writes the wait and PC. -/
theorem State.enterWait_keeps (s : State) (kw : Option KeyWait) :
    Keeps { wait := true } s ({ s with wait := kw } : State).advance := by
  constructor
  · exact fun _ _ => rfl
  · exact fun _ _ => rfl
  all_goals simp

/-- A write of DT. -/
theorem State.setDt_keeps (s : State) (b : Byte) : Keeps { dt := true } s ({ s with dt := b } : State).advance := by
  constructor
  · exact fun _ _ => rfl
  · exact fun _ _ => rfl
  all_goals simp

/-- A write of ST. -/
theorem State.setSt_keeps (s : State) (b : Byte) : Keeps { st := true } s ({ s with st := b } : State).advance := by
  constructor
  · exact fun _ _ => rfl
  · exact fun _ _ => rfl
  all_goals simp

theorem State.drawn_same (s : State) (x y : Reg) (n : Nibble) : SameButScreen s (s.drawn x y n).state :=
  drawRows_same _ _ _ _ _

/-- A drawn screen, the collision flag and the report write the framebuffer, VF, the changed output and PC. -/
theorem SameButScreen.draw_keeps {s u : State} (same : SameButScreen s u) (hit : Bool) :
    Keeps { regs := [VF], fb := true, changed := true } s (u.setFlag hit).reportChanged.advance := by
  obtain ⟨screen, rfl⟩ : ∃ screen, u = { s with fb := screen } := ⟨_, same⟩
  constructor
  · intro r notVF
    rw [State.reg_advance, State.reg_reportChanged, State.reg_setFlag_other _ _ _ (by simpa using notVF)]
    rfl
  · exact fun _ _ => rfl
  all_goals simp [State.setFlag]

/-! ## What a committing instruction may do -/

/-- `t` is `s` after a commit of `i`: within the listed effects of `i`, memory written by a checked block store at most
(R78, R79), PC advanced, skipped, jumped or popped, and the stack pushed at most (R133, R161 to R164). -/
structure Commits (i : Instr) (s t : State) : Prop where
  keeps : Keeps (effectsOf s i) s t
  mem : t.mem = s.mem ∨ ∃ a bs, a + bs.length ≤ memorySize ∧ (s.cfg.fontWriteProtect = true → fontEnd ≤ a) ∧
    t.mem = (s.storeBytes a bs).mem
  pc : t.pc = s.pc + 2 ∨ t.pc = s.pc + 4 ∨ t.pc.toNat ≤ 0x10FE ∨ ∃ k : Fin 16, t.pc = s.stack[k]
  stack : t.stack = s.stack ∨ ∃ room : s.sp.val < 16, t.stack = s.stack.set s.sp.val (s.pc + 2)

/-- The usual commit: no store, the stack left alone, PC at the next instruction. -/
theorem Commits.straight {i : Instr} {s t : State} (keeps : Keeps (effectsOf s i) s t)
    (noPush : (effectsOf s i).stack = false) (mem : t.mem = s.mem) (pc : t.pc = s.pc + 2) : Commits i s t :=
  ⟨keeps, .inl mem, .inl pc, .inl (keeps.stack noPush).1⟩

/-- A skip (R169). -/
theorem Commits.skip {i : Instr} {s : State} (plain : effectsOf s i = {}) (c : Bool) :
    Commits i s (s.advance.skipIf c) where
  keeps := plain ▸ s.skip_keeps c
  mem := .inl (by simp)
  pc := by
    rw [State.skip_pc]
    cases c
    · exact .inl rfl
    · exact .inr (.inl rfl)
  stack := .inl (by simp)

/-- A jump to an operand address, at most 0x10FE (R162, R164). -/
theorem Commits.jump {i : Instr} {s : State} {target : Word} (plain : effectsOf s i = {})
    (small : target.toNat ≤ 0x10FE) : Commits i s (s.jump target) where
  keeps := plain ▸ s.jump_keeps target
  mem := .inl rfl
  pc := .inr (.inr (.inl small))
  stack := .inl rfl

/-- A block store that passed its check (R233, R234). -/
theorem Commits.store {i : Instr} {s : State} {bs : List Byte}
    (stores : effectsOf s i = { mem := some (s.iAddr, bs.length) }) (nonempty : 0 < bs.length)
    (passed : storeCheck s.cfg s.iAddr bs.length = none) : Commits i s (s.storeBytes s.iAddr bs).advance where
  keeps := stores ▸ s.storeBytes_keeps s.iAddr bs
  mem := by
    obtain ⟨inSpace, font⟩ := (storeCheck_eq_none _ _ _ nonempty).1 passed
    exact .inr ⟨s.iAddr, bs, inSpace, font, rfl⟩
  pc := .inl (by simp)
  stack := .inl (by simp)

theorem addrWord_le (nnn : Addr) : (addrWord nnn).toNat ≤ 0x10FE := by
  have := nnn.isLt
  rw [addrWord_toNat]
  omega

theorem offsetTarget_le (nnn : Addr) (b : Byte) : (offsetTarget nnn b).toNat ≤ 0x10FE := by
  have := nnn.isLt
  have := b.isLt
  rw [offsetTarget_toNat]
  omega

/-! ## All 35 instructions -/

/-- Running an instruction raises a fault of its own on the state before it, or commits (R136). -/
theorem exec_raises_or_commits (i : Instr) (s : State) :
    (∃ k a, exec i s = .next (s.raise i k a)) ∨ ∃ t, exec i s = .next t ∧ Commits i s t := by
  cases i with
  | cls => exact .inr ⟨_, rfl, .straight s.clearScreen_keeps rfl rfl rfl⟩
  | ret =>
    by_cases live : 0 < s.sp.val
    · refine .inr ⟨_, exec_ret_of_pos live, s.pop_keeps live, .inl rfl, ?_, .inl rfl⟩
      exact .inr (.inr (.inr ⟨⟨s.sp.val - 1, by omega⟩, rfl⟩))
    · exact .inl ⟨_, _, exec_ret_of_zero (by omega)⟩
  | sys nnn => exact .inr ⟨_, rfl, .straight s.advance_keeps rfl rfl rfl⟩
  | jp nnn => exact .inr ⟨_, rfl, .jump rfl (addrWord_le nnn)⟩
  | call nnn =>
    by_cases room : s.sp.val < 16
    · refine .inr ⟨_, exec_call_of_lt room, s.push_jump_keeps _ _ room, .inl rfl, ?_, .inr ⟨room, rfl⟩⟩
      exact .inr (.inr (.inl (addrWord_le nnn)))
    · exact .inl ⟨_, _, exec_call_of_full (by omega)⟩
  | jpV0 nnn => exact .inr ⟨_, rfl, .jump rfl (offsetTarget_le nnn _)⟩
  | seByte | sneByte | seReg | sneReg => exact .inr ⟨_, rfl, .skip rfl _⟩
  | ldByte | addByte | ldReg | orReg | andReg | xorReg | rnd | ldVxDt =>
    exact .inr ⟨_, rfl, .straight (s.setReg_keeps _ _) rfl rfl rfl⟩
  | addReg | subReg | subnReg => exact .inr ⟨_, rfl, .straight (s.setReg_setFlag_keeps _ _ _) rfl rfl rfl⟩
  | shr | shl => exact .inr ⟨_, rfl, .straight (flagThenShift_keeps s _ _ _) rfl rfl rfl⟩
  | ldI | ldF => exact .inr ⟨_, rfl, .straight (s.setI_keeps _) rfl rfl rfl⟩
  | drw x y n =>
    cases check : loadCheck s.iAddr n.val with
    | some fault => exact .inl ⟨_, _, exec_drw_of_failed check⟩
    | none =>
      have same := s.drawn_same x y n
      refine .inr ⟨_, exec_drw_of_passed check, .straight (same.draw_keeps _) rfl ?_ ?_⟩
      · rw [same]; rfl
      · rw [same]; rfl
  | skp x =>
    cases key : keyIndex (s.reg x) with
    | some k => exact .inr ⟨_, exec_skp_of_key key, .skip rfl _⟩
    | none => exact .inl ⟨_, _, exec_skp_of_noKey key⟩
  | sknp x =>
    cases key : keyIndex (s.reg x) with
    | some k => exact .inr ⟨_, exec_sknp_of_key key, .skip rfl _⟩
    | none => exact .inl ⟨_, _, exec_sknp_of_noKey key⟩
  | ldVxK x => exact .inr ⟨_, rfl, .straight (s.enterWait_keeps _) rfl rfl rfl⟩
  | ldDtVx x => exact .inr ⟨_, rfl, .straight (s.setDt_keeps _) rfl rfl rfl⟩
  | ldStVx x => exact .inr ⟨_, rfl, .straight (s.setSt_keeps _) rfl rfl rfl⟩
  | addI x =>
    by_cases fits : s.iAddr + (s.reg x).toNat ≤ 0xFFFF
    · exact .inr ⟨_, exec_addI_of_le fits, .straight (s.setI_keeps _) rfl rfl rfl⟩
    · exact .inl ⟨_, _, exec_addI_of_gt (by omega)⟩
  | ldB x =>
    cases check : storeCheck s.cfg s.iAddr 3 with
    | some fault => exact .inl ⟨_, _, exec_ldB_of_failed check⟩
    | none => exact .inr ⟨_, exec_ldB_of_passed check, .store rfl (by simp) check⟩
  | ldMemVx x =>
    cases check : storeCheck s.cfg s.iAddr (x.val + 1) with
    | some fault => exact .inl ⟨_, _, exec_ldMemVx_of_failed check⟩
    | none =>
      have count := s.regsUpTo_length x
      refine .inr ⟨_, exec_ldMemVx_of_passed check, .store ?_ (by omega) (count ▸ check)⟩
      rw [count]; rfl
  | ldVxMem x =>
    cases check : loadCheck s.iAddr (x.val + 1) with
    | some fault => exact .inl ⟨_, _, exec_ldVxMem_of_failed check⟩
    | none =>
      exact .inr ⟨_, exec_ldVxMem_of_passed check, .straight (s.loadRegs_keeps _ x) rfl (by simp) (by simp)⟩

/-- The two cases told apart by the latch of the state they answer. -/
theorem raises_or_commits_of_exec {i : Instr} {s t : State} (run : exec i s = .next t) (awake : s.fault = none) :
    (∃ k a, t = s.raise i k a) ∨ (t.fault = none ∧ Commits i s t) := by
  obtain ⟨k, a, raised⟩ | ⟨u, answer, commits⟩ := exec_raises_or_commits i s
  · rw [run] at raised
    cases raised
    exact .inl ⟨k, a, rfl⟩
  · rw [run] at answer
    cases answer
    exact .inr ⟨commits.keeps.fault.trans awake, commits⟩

/-- Settles O12: a faulted answer is not a commit, so it is the raise, which is a latch. -/
theorem raisingInstructionCommitsNothing : Obligations.RaisingInstructionCommitsNothing := by
  intro i s t awake run faulted
  obtain ⟨k, a, rfl⟩ | ⟨noFault, -⟩ := raises_or_commits_of_exec run awake
  · exact ⟨k, a, s.raise_eq i k a⟩
  · exact absurd noFault faulted

/-- Settles O16: an answer without a fault is not a raise, so it is a commit, which keeps the frame. -/
theorem instructionsChangeOnlyTheirEffects : Obligations.InstructionsChangeOnlyTheirEffects := by
  intro i s t awake run noFault
  obtain ⟨k, a, rfl⟩ | ⟨-, commits⟩ := raises_or_commits_of_exec run awake
  · cases noFault
  · exact commits.keeps

end Sys2Proof.Machine
end

section
/-!
PROOFS. What a step can do, said once: the four ways a step ends, and the statements about the step itself (R130 to
R132, R136 to R141).
-/

namespace Sys2Proof.Machine

/-! ## The end of a step (R130, R328) -/

/-- A cycle or poll without a fault is followed by the synchronizer at the time of the step's input. -/
theorem step_of_unfaulted {s u : State} (awake : s.fault = none) (answer : cycleOrPoll s.receive = .next u)
    (now : u.now = s.nextInput.now) (noFault : u.fault = none) : step s = .next (u.timerSync s.nextInput.now) := by
  rw [step_running s awake, answer, finishStep, u.finish_running noFault, now]

/-- A fault ends the step at once. -/
theorem step_of_faulted {s u : State} (awake : s.fault = none) (answer : cycleOrPoll s.receive = .next u)
    (faulted : u.fault ≠ none) : step s = .next u := by
  rw [step_running s awake, answer, finishStep, u.finish_faulted faulted]

/-- A cycle that latches a fault ends the step with the landed inputs and the latch. -/
theorem step_of_latch {s : State} {r : FaultRecord} (awake : s.fault = none) (noWait : s.wait = none)
    (answer : cycle s.receive = .next (s.receive.latch r)) : step s = .next (s.receive.latch r) := by
  have polled : cycleOrPoll s.receive = .next (s.receive.latch r) := by
    rw [cycleOrPoll_awake s.receive noWait, answer]
  exact step_of_faulted awake polled (Option.some_ne_none r)

theorem Runs.awake {s : State} {i : Instr} (runs : Runs s i) : s.fault = none := runs.1

theorem Runs.noWait {s : State} {i : Instr} (runs : Runs s i) : s.wait = none := runs.2.1

/-- The cycle of a step that runs `i` is `exec i` on the state its inputs have landed in (R131, R135). -/
theorem Runs.cycleOrPoll_eq {s : State} {i : Instr} (runs : Runs s i) : cycleOrPoll s.receive = exec i s.receive := by
  obtain ⟨-, noWait, fetchable, word⟩ := runs
  rw [cycleOrPoll_awake s.receive noWait, cycle_of_decode s.receive i fetchable word]

/-- The word at PC names one instruction. -/
theorem Runs.unique {s : State} {i j : Instr} (runs : Runs s i) (runs' : Runs s j) : i = j := by
  obtain ⟨-, -, -, word⟩ := runs
  obtain ⟨-, -, -, word'⟩ := runs'
  exact Option.some.inj (word.symm.trans word')

/-! ## The four ways a step ends -/

/-- `t` is what a step of `s` answers: a halted core takes its inputs only; a waiting one polls; a cycle latches a fault
on the state its inputs have landed in; or it commits the instruction at PC. A poll and a commit are followed by the
synchronizer. -/
inductive StepsTo (s : State) : State → Prop where
  | halted (faulted : s.fault ≠ none) : StepsTo s s.receive.haltedStep
  | polled (kw : KeyWait) (awake : s.fault = none) (waits : s.wait = some kw) :
    StepsTo s ((s.receive.pollKeys kw).timerSync s.nextInput.now)
  | raised (r : FaultRecord) (awake : s.fault = none) (noWait : s.wait = none) (here : r.pc = s.pc) :
    StepsTo s (s.receive.latch r)
  | committed (i : Instr) (u : State) (runs : Runs s i) (commits : Commits i s.receive u) :
    StepsTo s (u.timerSync s.nextInput.now)

/-- A poll ends a step with the synchronizer: it cannot fault (R138, R296). -/
theorem step_of_waiting {s : State} {kw : KeyWait} (awake : s.fault = none) (waits : s.wait = some kw) :
    step s = .next ((s.receive.pollKeys kw).timerSync s.nextInput.now) :=
  step_of_unfaulted awake (cycleOrPoll_waiting s.receive kw waits) (by simp) (by simp [awake])

/-- Every step answers a next state, in one of the four ways. -/
theorem step_stepsTo (s : State) : ∃ t, step s = .next t ∧ StepsTo s t := by
  by_cases awake : s.fault = none
  case neg => exact ⟨_, step_halted s awake, .halted awake⟩
  cases waits : s.wait with
  | some kw => exact ⟨_, step_of_waiting awake waits, .polled kw awake waits⟩
  | none =>
    cases check : fetchCheck s.cfg s.pc with
    | some fault =>
      have latched := cycle_of_fetchCheck s.receive _ _ check
      exact ⟨_, step_of_latch awake waits latched, .raised _ awake waits rfl⟩
    | none =>
      have fetchable : Fetchable s := (fetchCheck_eq_none s).1 check
      cases word : decode (opcodeAtPc s) with
      | none =>
        have latched := cycle_of_illegal s.receive fetchable word
        exact ⟨_, step_of_latch awake waits latched, .raised _ awake waits rfl⟩
      | some i =>
        have runs : Runs s i := ⟨awake, waits, fetchable, word⟩
        obtain ⟨k, a, answer⟩ | ⟨u, answer, commits⟩ := exec_raises_or_commits i s.receive
        · rw [← runs.cycleOrPoll_eq] at answer
          exact ⟨_, step_of_faulted awake answer (Option.some_ne_none _), .raised _ awake waits rfl⟩
        · rw [← runs.cycleOrPoll_eq] at answer
          obtain ⟨now, -⟩ := commits.keeps.inputs
          have noFault : u.fault = none := commits.keeps.fault.trans awake
          exact ⟨_, step_of_unfaulted awake answer now noFault, .committed i u runs commits⟩

/-- What a step answers, it answers in one of the four ways. -/
theorem stepsTo_of_step {s t : State} (answer : step s = .next t) : StepsTo s t := by
  obtain ⟨u, answer', stepsTo⟩ := step_stepsTo s
  cases answer.symm.trans answer'
  exact stepsTo

/-- A commit leaves the core awake. -/
theorem Commits.awake {s u : State} {i : Instr} (commits : Commits i s.receive u) (runs : Runs s i) :
    u.fault = none :=
  commits.keeps.fault.trans runs.awake

/-! ## The obligations about the step -/

/-- Settles O6: the cycle of such a step is the instruction. -/
theorem stepRunsTheDecodedInstruction : Obligations.StepRunsTheDecodedInstruction := by
  intro s i runs
  rw [step_running s runs.awake, runs.cycleOrPoll_eq]

/-- The time of a step is that of its input, to its end. -/
theorem StepsTo.now_eq {s t : State} (stepsTo : StepsTo s t) : t.now = s.nextInput.now := by
  cases stepsTo with
  | halted _ => rfl
  | polled kw _ _ => simp
  | raised r _ _ _ => rfl
  | committed i u _ commits => exact commits.keeps.inputs.1

/-- So a cycle or poll does not write it. -/
theorem cycleOrPoll_now {s u : State} (awake : s.fault = none) (answer : cycleOrPoll s.receive = .next u)
    (noFault : u.fault = none) : u.now = s.nextInput.now := by
  have ends : step s = .next (u.timerSync u.now) := by
    rw [step_running s awake, answer, finishStep, u.finish_running noFault]
  exact (stepsTo_of_step ends).now_eq

/-- Settles O7: the two ends of a step. -/
theorem synchronizerEndsEveryUnfaultedStep : Obligations.SynchronizerEndsEveryUnfaultedStep := by
  intro s u awake answer
  exact ⟨fun noFault => step_of_unfaulted awake answer (cycleOrPoll_now awake answer noFault) noFault,
    step_of_faulted awake answer⟩

/-- Settles O15: each of the four ends is a next state. -/
theorem everyStepAnswersANextState : Obligations.EveryStepAnswersANextState := by
  intro s
  obtain ⟨t, answer, -⟩ := step_stepsTo s
  exact ⟨t, answer⟩

/-- Settles O10: the alignment is checked first, and an even or unchecked PC past the end fails the range check. -/
theorem fetchFaultsInOrder : Obligations.FetchFaultsInOrder := by
  intro s awake noWait
  refine ⟨fun odd => ?_, fun aligned past => ?_⟩
  · exact step_of_latch awake noWait (cycle_of_fetchCheck s.receive _ _ (fetchCheck_odd s.cfg s.pc odd.1 odd.2))
  · exact step_of_latch awake noWait (cycle_of_fetchCheck s.receive _ _ (fetchCheck_range s.cfg s.pc aligned past))

/-- Settles O11: the cycle latches the record of the illegal word. -/
theorem illegalWordHaltsTheCore : Obligations.IllegalWordHaltsTheCore := by
  intro s awake noWait fetchable illegal
  exact step_of_latch awake noWait (cycle_of_illegal s.receive fetchable illegal)

/-- Settles O13: of the four ends only the latch leaves a fault that was not there before. -/
theorem faultingStepChangesOnlyTheLatch : Obligations.FaultingStepChangesOnlyTheLatch := by
  intro s t r awake answer faulted
  cases stepsTo_of_step answer with
  | halted halted => exact absurd awake halted
  | polled kw _ _ => simp [awake] at faulted
  | committed i u runs commits => simp [commits.awake runs] at faulted
  | raised r' _ noWait here =>
    cases faulted
    refine ⟨⟨rfl, rfl, rfl, rfl, rfl, rfl, rfl, rfl, rfl, rfl, rfl, rfl, rfl⟩, noWait, here, ?_, rfl⟩
    cases kind : r.kind <;> simp [FaultRecord.code, FaultKind.code, kind]

/-- Settles O14, by induction on the number of steps: each lands the next input and keeps the latch. -/
theorem haltedCoreNeverChanges : Obligations.HaltedCoreNeverChanges := by
  intro s k faulted
  induction k generalizing s with
  | zero =>
    rw [run_succ_of_next 0 s _ (step_halted s faulted), State.inputAt_zero, List.drop_one]
    rfl
  | succ k ih =>
    have coming : s.receive.haltedStep.inputAt k = s.inputAt (k + 1) := s.inputAt_receive k
    have left : s.receive.haltedStep.inputs.drop (k + 1) = s.inputs.drop (k + 1 + 1) := by simp
    have count : s.receive.haltedStep.stepNo + (k + 1) = s.stepNo + (k + 1 + 1) := by simp; omega
    rw [run_succ_of_next (k + 1) s _ (step_halted s faulted), ih s.receive.haltedStep faulted, coming, left, count]
    rfl

/-- Settles O17: no end of a step writes the parameters, or the keys after they have landed. -/
theorem stepNeverWritesKeysOrParameters : Obligations.StepNeverWritesKeysOrParameters := by
  intro s t answer
  cases stepsTo_of_step answer with
  | halted _ => exact ⟨rfl, rfl⟩
  | polled kw _ _ => simp
  | raised r _ _ _ => exact ⟨rfl, rfl⟩
  | committed i u runs commits => exact ⟨commits.keeps.cfg, commits.keeps.keys⟩

/-! ## The placed word -/

/-- The state with a word at its PC, before the word is stored. -/
def State.readied (s : State) : State := { s with wait := none, fault := none, pc := s.fetchablePc }

theorem State.withNextWord_eq (s : State) (w : Word) :
    s.withNextWord w = s.readied.storeBytes s.fetchablePc.toNat (bytesOfWord w) := rfl

/-- In a canonical memory the placed word is the one at PC. -/
theorem opcodeAtPc_withNextWord (s : State) (w : Word) (wf : s.memWf) : opcodeAtPc (s.withNextWord w) = w := by
  have inSpace : s.fetchablePc.toNat + (bytesOfWord w).length ≤ memorySize := by
    have := fetchablePc_le s
    show s.fetchablePc.toNat + 2 ≤ 0x1000
    omega
  have byte (k : Nat) (hk : k < (bytesOfWord w).length) :
      (s.withNextWord w).readByte (s.fetchablePc.toNat + k) = (bytesOfWord w)[k] :=
    s.readied.readByte_storeBytes_inside _ _ k hk wf inSpace
  have pc : (s.withNextWord w).pc = s.fetchablePc := by simp [State.withNextWord_eq, State.readied]
  rw [opcodeAtPc_eq, State.readWord, pc, byte 1 (by simp [bytesOfWord])]
  rw [show (s.withNextWord w).readByte s.fetchablePc.toNat = highByte w from byte 0 (by simp [bytesOfWord])]
  exact wordOfBytes_bytes w

/-- The placed word's instruction is the one the next step runs. -/
theorem runs_withNextWord {s : State} {w : Word} {i : Instr} (wf : s.memWf) (decodes : decode w = some i) :
    Runs (s.withNextWord w) i := by
  refine ⟨?_, ?_, ?_, ?_⟩
  · simp [State.withNextWord_eq, State.readied]
  · simp [State.withNextWord_eq, State.readied]
  · rw [← fetchCheck_eq_none]
    simpa [State.withNextWord_eq, State.readied] using fetchablePc_check s
  · rw [opcodeAtPc_withNextWord s w wf, decodes]

/-- A table word is decoded as the word its stored bytes make. -/
theorem decodeTableWord_eq (nbits w : Nat) : decodeTableWord nbits w = decode (tableWord nbits w) := by
  simp only [decodeTableWord, bytesOfWord, decodeBytes, wordOfBytes_bytes]
  cases decode (tableWord nbits w) <;> rfl

/-- Settles O8: the placed word is at a fetchable PC of a core neither halted nor waiting. -/
theorem placedWordIsRunNext : Obligations.PlacedWordIsRunNext := by
  intro s w i wf decodes
  rw [decodeTableWord_eq] at decodes
  exact stepRunsTheDecodedInstruction _ i (runs_withNextWord wf decodes)

/-! ## The random byte -/

/-- With an input lined up, that is the one the step takes. -/
theorem State.nextInput_of_cons {s : State} {inp : StepInput} {rest : List StepInput} (lined : s.inputs = inp :: rest) :
    s.nextInput = inp := by
  simp only [State.nextInput, lined]

/-- Settles O32: RND commits on the state in which the lined-up input has landed. -/
theorem randomByteIsTheStepsInput : Obligations.RandomByteIsTheStepsInput := by
  intro s x nn inp rest runs lined
  have taken : s.nextInput = inp := State.nextInput_of_cons lined
  have answer : step s = .next ((s.receive.setReg x (s.receive.rnd &&& nn)).advance.timerSync s.nextInput.now) :=
    step_of_unfaulted runs.awake runs.cycleOrPoll_eq rfl runs.awake
  refine ⟨_, answer, ?_, fun r other => ?_, rfl, ?_, ?_, rfl⟩
  · rw [← taken]
    exact State.reg_setReg_same _ _ _
  · exact State.reg_setReg_other _ _ _ _ other
  · rw [← taken]
    rfl
  · show s.inputs.tail = rest
    rw [lined, List.tail_cons]

end Sys2Proof.Machine
end

section
/-!
PROOFS. What every step keeps: memory, the screen and the stack but for the instructions that write them, the outputs,
and the two invariants (R36, R37, R53, R72, R79, R134, R140, R266).
-/

namespace Sys2Proof.Machine

/-! ## The listed effects read backwards -/

/-- The landing of inputs does not move a store. -/
theorem effectsOf_receive (s : State) (i : Instr) : effectsOf s.receive i = effectsOf s i := by
  cases i <;> rfl

theorem effectsOf_fb {s : State} {i : Instr} (draws : (effectsOf s i).fb = true) :
    i = .cls ∨ ∃ x y n, i = .drw x y n := by
  cases i <;> simp_all [effectsOf]

theorem effectsOf_changed (s : State) (i : Instr) : (effectsOf s i).changed = (effectsOf s i).fb := by
  cases i <;> rfl

theorem effectsOf_stack {s : State} {i : Instr} (pushes : (effectsOf s i).stack = true) :
    i = .ret ∨ ∃ nnn, i = .call nnn := by
  cases i <;> simp_all [effectsOf]

theorem effectsOf_wait {s : State} {i : Instr} (waits : (effectsOf s i).wait = true) : ∃ x, i = .ldVxK x := by
  cases i <;> simp_all [effectsOf]

theorem effectsOf_stores {s : State} {i : Instr} {a : Nat} (stores : (effectsOf s i).stores a) :
    (∃ x, i = .ldB x ∧ s.i.toNat ≤ a ∧ a < s.i.toNat + 3) ∨
      ∃ x, i = .ldMemVx x ∧ s.i.toNat ≤ a ∧ a < s.i.toNat + x.val + 1 := by
  cases i with
  | ldB x => exact .inl ⟨x, rfl, stores⟩
  | ldMemVx x => exact .inr ⟨x, rfl, stores⟩
  | _ => exact stores.elim

/-! ## One field at a time -/

/-- Settles O39: only a commit stores, and only where its instruction's effects say. -/
theorem onlyStoresChangeMemory : Obligations.OnlyStoresChangeMemory := by
  intro s t a answer changed
  cases stepsTo_of_step answer with
  | halted _ => exact absurd rfl changed
  | polled kw _ _ => exact absurd (State.readByte_of_mem_eq _ _ (by simp) (by simp) a) changed
  | raised r _ _ _ => exact absurd rfl changed
  | committed i u runs commits =>
    have stores : (effectsOf s i).stores a := by
      by_contra outside
      rw [← effectsOf_receive] at outside
      exact changed (commits.keeps.mem a outside)
    obtain ⟨x, rfl, range⟩ | ⟨x, rfl, range⟩ := effectsOf_stores stores
    · exact .inl ⟨x, runs, range⟩
    · exact .inr ⟨x, runs, range⟩

/-- Settles O45: only a commit writes the screen, and only one whose effects list it. -/
theorem onlyClsAndDrwWriteTheScreen : Obligations.OnlyClsAndDrwWriteTheScreen := by
  intro s t answer changed
  cases stepsTo_of_step answer with
  | halted _ => exact absurd rfl changed
  | polled kw _ _ => simp at changed
  | raised r _ _ _ => exact absurd rfl changed
  | committed i u runs commits =>
    have draws : (effectsOf s i).fb = true := by
      by_contra silent
      rw [Bool.not_eq_true, ← effectsOf_receive] at silent
      exact changed (commits.keeps.fb silent)
    obtain rfl | ⟨x, y, n, rfl⟩ := effectsOf_fb draws
    · exact .inl runs
    · exact .inr ⟨x, y, n, runs⟩

/-- Settles O47: only a commit writes the stack or SP, and only one whose effects list it. -/
theorem onlyCallAndReturnTouchTheStack : Obligations.OnlyCallAndReturnTouchTheStack := by
  intro s t answer changed
  cases stepsTo_of_step answer with
  | halted _ => simp at changed
  | polled kw _ _ => simp at changed
  | raised r _ _ _ => simp at changed
  | committed i u runs commits =>
    have pushes : (effectsOf s i).stack = true := by
      by_contra silent
      rw [Bool.not_eq_true, ← effectsOf_receive] at silent
      obtain ⟨stack, sp⟩ := commits.keeps.stack silent
      simp [stack, sp] at changed
    obtain rfl | ⟨nnn, rfl⟩ := effectsOf_stack pushes
    · exact .inl runs
    · exact .inr ⟨nnn, runs⟩

/-- A committed instruction reports a change exactly when it is CLS or DRW, and no fault. -/
theorem Commits.out_eq {s u : State} {i : Instr} (commits : Commits i s.receive u) :
    u.out.changed = (effectsOf s i).fb ∧ u.out.raised = none := by
  rw [commits.keeps.out, effectsOf_changed, effectsOf_receive]
  cases (effectsOf s i).fb <;> exact ⟨rfl, rfl⟩

/-- The step runs an instruction that writes the screen, exactly when the one it runs does. -/
theorem runs_draws_iff {s : State} {i : Instr} (runs : Runs s i) :
    (Runs s .cls ∨ ∃ x y n, Runs s (.drw x y n)) ↔ (effectsOf s i).fb = true := by
  constructor
  · rintro (cls | ⟨x, y, n, drw⟩)
    · rw [runs.unique cls]; rfl
    · rw [runs.unique drw]; rfl
  · intro draws
    obtain rfl | ⟨x, y, n, rfl⟩ := effectsOf_fb draws
    · exact .inl runs
    · exact .inr ⟨x, y, n, runs⟩

/-- A core that is halted or waiting runs no instruction. -/
theorem not_runs_draws {s : State} (idle : s.fault ≠ none ∨ s.wait ≠ none) :
    ¬ (Runs s .cls ∨ ∃ x y n, Runs s (.drw x y n)) := by
  rintro (⟨awake, noWait, -⟩ | ⟨_, _, _, awake, noWait, -⟩) <;> exact idle.elim (· awake) (· noWait)

/-- Settles O46, along the four ends of a step. -/
theorem changedIsReportedByClsAndDrwOnly : Obligations.ChangedIsReportedByClsAndDrwOnly := by
  intro s t answer
  cases stepsTo_of_step answer with
  | halted faulted => exact ⟨⟨nofun, fun h => absurd h.1 faulted⟩, fun awake => absurd awake faulted⟩
  | polled kw awake waits =>
    have idle := not_runs_draws (s := s) (.inr (by simp [waits]))
    exact ⟨by simp [idle, StepOutput.idle], by simp [awake, StepOutput.idle]⟩
  | raised r _ _ _ => exact ⟨⟨nofun, fun h => nomatch h.1⟩, fun _ => rfl⟩
  | committed i u runs commits =>
    obtain ⟨changed, raised⟩ := commits.out_eq
    have awake := commits.awake runs
    rw [runs_draws_iff runs]
    simp [changed, raised, awake]

/-! ## The invariant (R53, R79) -/

/-- The invariant speaks of the parameters, memory, the wait and the latch. -/
theorem Inv.congr {s t : State} (inv : Inv s) (cfg : t.cfg = s.cfg) (mem : t.mem = s.mem)
    (wait : t.wait ≠ none → t.fault = none) : Inv t where
  params := cfg ▸ inv.params
  mem := by
    rw [State.memWf, cfg, mem]
    exact inv.mem
  font protect a inFont := by
    rw [State.readByte_of_mem_eq s t mem cfg a, cfg]
    rw [cfg] at protect
    exact inv.font protect a inFont
  wait := wait

/-- A checked block store keeps it: the bytes lie in the address space, and outside the font while that is protected. -/
theorem Inv.storeBytes {s : State} (inv : Inv s) {a : Nat} {bs : List Byte} (inSpace : a + bs.length ≤ memorySize)
    (font : s.cfg.fontWriteProtect = true → fontEnd ≤ a) : Inv (s.storeBytes a bs) where
  params := by simpa using inv.params
  mem := s.storeBytes_memWf a bs inv.mem inSpace
  font protect a' inFont := by
    rw [State.storeBytes_cfg] at protect ⊢
    have := font protect
    rw [State.readByte_storeBytes_outside _ _ _ _ (by omega)]
    exact inv.font protect a' inFont
  wait := by simpa using inv.wait

/-- A commit keeps it. -/
theorem Commits.inv {s u : State} {i : Instr} (commits : Commits i s u) (awake : s.fault = none) (inv : Inv s) :
    Inv u := by
  have noFault : u.fault = none := commits.keeps.fault.trans awake
  obtain mem | ⟨a, bs, inSpace, font, mem⟩ := commits.mem
  · exact inv.congr commits.keeps.cfg mem fun _ => noFault
  · exact (inv.storeBytes inSpace font).congr (by simp [commits.keeps.cfg]) mem fun _ => noFault

/-- Settles O59, along the four ends of a step. -/
theorem stepKeepsTheInvariant : Obligations.StepKeepsTheInvariant := by
  intro s t inv answer
  cases stepsTo_of_step answer with
  | halted _ => exact inv.congr rfl rfl inv.wait
  | polled kw awake _ => exact inv.congr (by simp) (by simp) (by simp [awake])
  | raised r _ noWait _ => exact inv.congr rfl rfl fun waits => absurd noWait waits
  | committed i u runs commits =>
    have landed : Inv s.receive := inv.congr rfl rfl inv.wait
    have after : Inv u := commits.inv runs.awake landed
    exact after.congr rfl rfl after.wait

/-! ## The range of PC (R36, R134) -/

/-- The range speaks of PC and the stack. -/
theorem PcInRange.congr {s t : State} (inRange : PcInRange s) (pc : t.pc = s.pc) (stack : t.stack = s.stack) :
    PcInRange t := by
  rw [PcInRange, pc, stack]
  exact inRange

/-- An instruction is fetched below 0xFFF, so PC plus a small step does not wrap. -/
theorem pc_add_toNat {pc k : Word} (fetched : pc.toNat + 1 ≤ 0xFFF) (small : k.toNat ≤ 4) :
    (pc + k).toNat = pc.toNat + k.toNat := by
  rw [BitVec.toNat_add, Nat.mod_eq_of_lt (by omega)]

/-- A commit of a fetched instruction keeps the range: it goes at most 4 past PC, to an operand of at most 0x10FE or to
a stack entry, and pushes the address after its own. -/
theorem Commits.pcInRange {s u : State} {i : Instr} (commits : Commits i s u) (fetched : s.pc.toNat + 1 ≤ 0xFFF)
    (inRange : PcInRange s) : PcInRange u := by
  obtain ⟨-, entries⟩ := inRange
  have nextPc : (s.pc + 2).toNat = s.pc.toNat + 2 := pc_add_toNat fetched (by decide)
  have skipPc : (s.pc + 4).toNat = s.pc.toNat + 4 := pc_add_toNat fetched (by decide)
  refine ⟨?_, fun k => ?_⟩
  · obtain pc | pc | small | ⟨k, pc⟩ := commits.pc
    · rw [pc, nextPc]; omega
    · rw [pc, skipPc]; omega
    · exact small
    · have := entries k
      rw [pc]; omega
  · obtain stack | ⟨room, stack⟩ := commits.stack
    · rw [stack]
      exact entries k
    · rw [stack, Fin.getElem_fin, Vector.getElem_set]
      split
      · rw [nextPc]; omega
      · exact entries k

/-- Settles O60, along the four ends of a step. -/
theorem stepKeepsPcInRange : Obligations.StepKeepsPcInRange := by
  intro s t inRange answer
  cases stepsTo_of_step answer with
  | halted _ => exact inRange.congr rfl rfl
  | polled kw _ _ => exact inRange.congr (by simp) (by simp)
  | raised r _ _ _ => exact inRange.congr rfl rfl
  | committed i u runs commits =>
    obtain ⟨-, -, ⟨-, fetched⟩, -⟩ := runs
    have landed : PcInRange s.receive := inRange.congr rfl rfl
    exact (commits.pcInRange fetched landed).congr rfl rfl

end Sys2Proof.Machine
end

section
/-!
PROOFS. Arithmetic with a flag, the shifts and the random byte (R196 to R201): the order of the register write and the
flag write decides what VF holds when x = 0xF.
-/

namespace Sys2Proof.Machine

/-! ## The shared effects -/

/-- A register write and then a flag write: the flag stands in VF, over the result when x = 0xF. -/
theorem exec_writes_reg_then_flag {i : Instr} {s : State} {x : Reg} {b : Byte} {f : Bool}
    (run : exec i s = .next ((s.setReg x b).setFlag f).advance) :
    ∃ t, exec i s = .next t ∧ (x ≠ VF → t.reg x = b) ∧ t.reg VF = flagByte f ∧ t.pc = s.pc + 2 ∧
      Keeps { regs := [x, VF] } s t := by
  refine ⟨_, run, fun notVF => ?_, State.reg_setFlag_VF _ f, rfl, s.setReg_setFlag_keeps x b f⟩
  rw [State.reg_advance, State.reg_setFlag_other _ _ _ notVF, State.reg_setReg_same]

/-- A flag write and then a shift of VX: with x = 0xF it is the new flag that is shifted. -/
theorem exec_writes_flag_then_shift {i : Instr} {s : State} {x : Reg} {bit : Byte} {f : Byte → Byte}
    (run : exec i s = .next (flagThenShift s x bit f).advance) :
    ∃ t, exec i s = .next t ∧ (x ≠ VF → t.reg x = f (s.reg x) ∧ t.reg VF = bit) ∧ (x = VF → t.reg VF = f bit) ∧
      t.pc = s.pc + 2 ∧ Keeps { regs := [x, VF] } s t := by
  refine ⟨_, run, fun notVF => ⟨?_, ?_⟩, fun isVF => ?_, rfl, flagThenShift_keeps s x bit f⟩
  · rw [State.reg_advance, flagThenShift, State.reg_setReg_same, State.reg_setReg_other _ _ _ _ notVF]
  · rw [State.reg_advance, flagThenShift, State.reg_setReg_other _ _ _ _ notVF.symm, State.reg_setReg_same]
  · rw [State.reg_advance, flagThenShift, isVF, State.reg_setReg_same, State.reg_setReg_same]

/-! ## Flags and shifted bytes as naturals -/

theorem carryOf_toNat (a b : Byte) : (flagByte (carryOf a b)).toNat = if a.toNat + b.toNat > 255 then 1 else 0 := by
  simp only [flagByte_toNat, carryOf, decide_eq_true_eq]

theorem noBorrow_toNat (a b : Byte) : (flagByte (noBorrow a b)).toNat = if a.toNat ≥ b.toNat then 1 else 0 := by
  simp only [flagByte_toNat, noBorrow, decide_eq_true_eq]

theorem byte_sub_toNat (a b : Byte) : (a - b).toNat = (a.toNat + 256 - b.toNat) % 256 := by
  have := b.isLt
  rw [BitVec.toNat_sub]
  omega

theorem byte_shr_toNat (b : Byte) : (b >>> 1).toNat = b.toNat / 2 := by
  rw [BitVec.toNat_ushiftRight, Nat.shiftRight_eq_div_pow]

theorem byte_shl_toNat (b : Byte) : (b <<< 1).toNat = b.toNat * 2 % 256 := by
  rw [BitVec.toNat_shiftLeft, Nat.shiftLeft_eq]

/-! ## The obligations -/

/-- Settles O28: the sum of bit vectors is the sum modulo 256, and the flag is the carry. -/
theorem addRegWritesSumThenCarry : Obligations.AddRegWritesSumThenCarry := by
  intro x y s
  have word : IsWordOf (0x8004 + x.val * 0x100 + y.val * 0x10) (.addReg x y) :=
    isWordOf_of_encode (packXYN_class8_toNat x y 4) (decode_encode (.addReg x y) rfl)
  obtain ⟨t, run, sum, flag, pc, keeps⟩ := exec_writes_reg_then_flag (i := .addReg x y) (s := s) rfl
  exact ⟨word, t, run, fun notVF => by rw [sum notVF, BitVec.toNat_add], by rw [flag, carryOf_toNat], pc, keeps⟩

/-- Settles O29: SUBN is SUB with the operands exchanged. -/
theorem subtractionsWriteDifferenceThenNoBorrow : Obligations.SubtractionsWriteDifferenceThenNoBorrow := by
  intro x y s
  refine ⟨?_, ?_, ?_, ?_⟩
  · exact isWordOf_of_encode (packXYN_class8_toNat x y 5) (decode_encode (.subReg x y) rfl)
  · exact isWordOf_of_encode (packXYN_class8_toNat x y 7) (decode_encode (.subnReg x y) rfl)
  · obtain ⟨t, run, difference, flag, pc, keeps⟩ := exec_writes_reg_then_flag (i := .subReg x y) (s := s) rfl
    exact ⟨t, run, fun notVF => by rw [difference notVF, byte_sub_toNat], by rw [flag, noBorrow_toNat], pc, keeps⟩
  · obtain ⟨t, run, difference, flag, pc, keeps⟩ := exec_writes_reg_then_flag (i := .subnReg x y) (s := s) rfl
    exact ⟨t, run, fun notVF => by rw [difference notVF, byte_sub_toNat], by rw [flag, noBorrow_toNat], pc, keeps⟩

/-- Settles O30: with x = 0xF the shifted value is one bit, which SHR loses and SHL doubles. -/
theorem shiftsWriteFlagThenVx : Obligations.ShiftsWriteFlagThenVx := by
  intro x y s
  refine ⟨?_, ?_, ?_, ?_⟩
  · exact isWordOf_of_encode (packXYN_class8_toNat x y 6) (decode_encode (.shr x y) rfl)
  · exact isWordOf_of_encode (packXYN_class8_toNat x y 14) (decode_encode (.shl x y) rfl)
  · obtain ⟨t, run, other, same, pc, keeps⟩ := exec_writes_flag_then_shift (i := .shr x y) (s := s) rfl
    refine ⟨t, run, fun notVF => ?_, fun isVF => ?_, pc, keeps⟩
    · obtain ⟨value, flag⟩ := other notVF
      exact ⟨by rw [value, byte_shr_toNat], by rw [flag, lowBit_toNat]⟩
    · rw [same isVF, byte_shr_toNat, lowBit_toNat]
      omega
  · obtain ⟨t, run, other, same, pc, keeps⟩ := exec_writes_flag_then_shift (i := .shl x y) (s := s) rfl
    refine ⟨t, run, fun notVF => ?_, fun isVF => ?_, pc, keeps⟩
    · obtain ⟨value, flag⟩ := other notVF
      exact ⟨by rw [value, byte_shl_toNat], by rw [flag, highBit_toNat]⟩
    · have := (s.reg x).isLt
      rw [same isVF, byte_shl_toNat, highBit_toNat]
      omega

/-- Settles O31: the byte written is the AND of the two bytes, whose bits are the AND of their bits. -/
theorem randomIsMaskedByNn : Obligations.RandomIsMaskedByNn := by
  intro x nn s
  have word : IsWordOf (0xC000 + x.val * 0x100 + nn.toNat) (.rnd x nn) :=
    isWordOf_of_encode (packXNN_toNat 0xC#4 x nn) (decode_encode (.rnd x nn) rfl)
  obtain ⟨t, run, value, pc, keeps⟩ := exec_writes_reg (i := .rnd x nn) (s := s) rfl
  exact ⟨word, t, run, fun k _ => by rw [value, BitVec.getLsbD_and], pc, keeps⟩

end Sys2Proof.Machine
end

section
/-!
PROOFS. The call stack and the register skips (R161, R163, R167, R168).
-/

namespace Sys2Proof.Machine

/-- Settles O21: the equation of each case, and the pushed entry read back. -/
theorem callPushesTheReturnAddress : Obligations.CallPushesTheReturnAddress := by
  intro nnn s
  refine ⟨?_, fun room => ⟨_, exec_call_of_lt room, ?_, fun k other => ?_, rfl, addrWord_toNat nnn, ?_⟩, ?_⟩
  · exact isWordOf_of_encode (packNNN_toNat 0x2#4 nnn) (decode_encode (.call nnn) rfl)
  · exact Vector.getElem?_set_self room
  · exact Vector.getElem_set_ne room k.isLt (Ne.symm other)
  · exact s.push_jump_keeps _ _ room
  · exact exec_call_of_full

/-- Settles O22: the equation of each case. -/
theorem returnPopsTheStack : Obligations.ReturnPopsTheStack := by
  refine ⟨isWordOf_of_encode rfl (decode_encode .ret rfl), fun s => ⟨fun live => ?_, exec_ret_of_zero⟩⟩
  refine ⟨_, exec_ret_of_pos live, Vector.getElem?_eq_getElem _, ?_, rfl, s.pop_keeps live⟩
  exact Nat.sub_add_cancel live

/-- Settles O24: both effects are the skip of R169, under the condition and under its opposite. -/
theorem registerSkipsCompareVxWithVy : Obligations.RegisterSkipsCompareVxWithVy := by
  intro x y s
  refine ⟨?_, ?_, ?_, ?_⟩
  · exact isWordOf_of_encode (packXYN_toNat 0x5#4 x y 0) (decode_encode (.seReg x y) rfl)
  · exact isWordOf_of_encode (packXYN_toNat 0x9#4 x y 0) (decode_encode (.sneReg x y) rfl)
  · refine ⟨_, rfl, ?_, s.skip_keeps _⟩
    simp only [State.skip_pc, beq_iff_eq]
  · refine ⟨_, rfl, ?_, s.skip_keeps _⟩
    simp only [State.skip_pc, bne_iff_ne, ite_not]

end Sys2Proof.Machine
end

section
/-!
PROOFS. The index sum, the stores, the block load and the draw that leaves memory (R231, R233 to R235, R261, R78, R79).
-/

namespace Sys2Proof.Machine

/-! ## The checks of an access through I, in numbers -/

theorem State.loadCheck_passed {s : State} {count : Nat} (inSpace : s.i.toNat + count ≤ 0x1000) :
    loadCheck s.iAddr count = none :=
  (loadCheck_eq_none _ _).2 (.inr inSpace)

theorem State.loadCheck_failed {s : State} {count : Nat} (pos : 0 < count) (past : 0x1000 < s.i.toNat + count) :
    loadCheck s.iAddr count = some (.addressError, max s.i.toNat 0x1000) :=
  loadCheck_eq_some _ _ pos past

theorem State.storeCheck_passed {s : State} {count : Nat} (pos : 0 < count) (inSpace : s.i.toNat + count ≤ 0x1000)
    (font : s.cfg.fontWriteProtect = true → 0x050 ≤ s.i.toNat) : storeCheck s.cfg s.iAddr count = none :=
  (storeCheck_eq_none _ _ _ pos).2 ⟨inSpace, font⟩

theorem State.storeCheck_past {s : State} {count : Nat} (pos : 0 < count) (past : 0x1000 < s.i.toNat + count) :
    storeCheck s.cfg s.iAddr count = some (.addressError, max s.i.toNat 0x1000) :=
  storeCheck_range _ _ _ pos past

theorem State.storeCheck_inFont {s : State} {count : Nat} (short : count ≤ 16)
    (inFont : s.cfg.fontWriteProtect = true ∧ s.i.toNat < 0x050) :
    storeCheck s.cfg s.iAddr count = some (.protectedWrite, s.i.toNat) := by
  obtain ⟨protect, low⟩ := inFont
  have inSpace : s.i.toNat + count ≤ 0x1000 := by omega
  exact storeCheck_font _ _ _ inSpace protect low

/-! ## The obligations -/

/-- Settles O34: the equation of each case; a sum that fits 16 bits is not reduced. -/
theorem addIndexChecksSixteenBits : Obligations.AddIndexChecksSixteenBits := by
  intro x s
  refine ⟨?_, fun fits => ?_, exec_addI_of_gt⟩
  · exact isWordOf_of_encode (packXNN_classF_toNat x 0x1E#8) (decode_encode (.addI x) rfl)
  · obtain ⟨t, run, index, pc, keeps⟩ := exec_writes_index (exec_addI_of_le fits)
    refine ⟨t, run, ?_, pc, keeps⟩
    rw [index, BitVec.toNat_ofNat, State.iAddr, Nat.mod_eq_of_lt (by omega)]

/-- A stored byte read back, its range in numbers. -/
theorem State.readByte_stored {s : State} {bs : List Byte} (wf : s.memWf) (inSpace : s.i.toNat + bs.length ≤ 0x1000)
    (k : Nat) (hk : k < bs.length) : (s.storeBytes s.iAddr bs).advance.readByte (s.i.toNat + k) = bs[k] :=
  s.readByte_storeBytes_inside _ bs k hk wf inSpace

/-- Settles O36: the equation of each case, and the stored digits read back. -/
theorem bcdStoresThreeDigits : Obligations.BcdStoresThreeDigits := by
  intro x s wf
  refine ⟨?_, fun inSpace font => ?_, fun past => ?_, fun inFont => ?_⟩
  · exact isWordOf_of_encode (packXNN_classF_toNat x 0x33#8) (decode_encode (.ldB x) rfl)
  · have range : s.i.toNat + (bcdDigits (s.reg x)).length ≤ 0x1000 := by
      rw [bcdDigits_length]
      omega
    have small := (s.reg x).isLt
    refine ⟨_, exec_ldB_of_passed (State.storeCheck_passed (by decide) range font), ?_, ?_, ?_, by simp,
      s.storeBytes_keeps _ (bcdDigits (s.reg x))⟩
    · rw [← Nat.add_zero s.i.toNat, State.readByte_stored wf range 0 (by simp)]
      exact Nat.mod_eq_of_lt (by omega)
    · rw [State.readByte_stored wf range 1 (by simp)]
      exact Nat.mod_eq_of_lt (by omega)
    · rw [State.readByte_stored wf range 2 (by simp)]
      exact Nat.mod_eq_of_lt (by omega)
  · exact exec_ldB_of_failed (State.storeCheck_past (by decide) (by omega))
  · exact exec_ldB_of_failed (State.storeCheck_inFont (by decide) inFont)

/-- Settles O37: the equation of each case, and the stored registers read back. -/
theorem blockStoreCopiesRegisters : Obligations.BlockStoreCopiesRegisters := by
  intro x s wf
  have count : (s.regsUpTo x).length = x.val + 1 := s.regsUpTo_length x
  refine ⟨?_, fun inSpace font => ?_, fun past => ?_, fun inFont => ?_⟩
  · exact isWordOf_of_encode (packXNN_classF_toNat x 0x55#8) (decode_encode (.ldMemVx x) rfl)
  · have passed : storeCheck s.cfg s.iAddr (x.val + 1) = none := State.storeCheck_passed (by omega) (by omega) font
    refine ⟨_, exec_ldMemVx_of_passed passed, fun r upTo => ?_, by simp, ?_⟩
    · have stored : r.val < (s.regsUpTo x).length := by
        rw [count]
        exact Nat.lt_succ_of_le upTo
      rw [State.readByte_stored wf (by omega) r.val stored, State.regsUpTo_getElem]
    · rw [← count]
      exact s.storeBytes_keeps _ _
  · exact exec_ldMemVx_of_failed (State.storeCheck_past (by omega) (by omega))
  · exact exec_ldMemVx_of_failed (State.storeCheck_inFont (by omega) inFont)

/-- Settles O38: the equation of each case, and the loaded registers read back. -/
theorem blockLoadCopiesMemory : Obligations.BlockLoadCopiesMemory := by
  intro x s
  refine ⟨?_, fun inSpace => ?_, fun past => ?_⟩
  · exact isWordOf_of_encode (packXNN_classF_toNat x 0x65#8) (decode_encode (.ldVxMem x) rfl)
  · have passed : loadCheck s.iAddr (x.val + 1) = none := State.loadCheck_passed (by omega)
    refine ⟨_, exec_ldVxMem_of_passed passed, fun r upTo => ?_, fun r above => ?_, by simp, s.loadRegs_keeps _ x⟩
    · rw [State.reg_advance, State.reg_loadRegs _ _ _ _ x.isLt, if_pos (Nat.lt_succ_of_le upTo), State.iAddr]
    · rw [State.reg_advance, State.reg_loadRegs _ _ _ _ x.isLt, if_neg (Nat.not_lt.2 above)]
  · exact exec_ldVxMem_of_failed (State.loadCheck_failed (by omega) (by omega))

/-- Settles O44: the check fails before the first row is drawn. -/
theorem drawOutsideMemoryRaises : Obligations.DrawOutsideMemoryRaises := by
  intro x y n s rows past
  exact exec_drw_of_failed (State.loadCheck_failed rows (by omega))

end Sys2Proof.Machine
end

section
/-!
PROOFS. Keys and timers as instructions: the key skips, the timer moves and the entry into the key wait (R290 to R295).
-/

namespace Sys2Proof.Machine

/-- Settles O48: with a key the skip of R169 on its bit, with none the fault. -/
theorem keySkipsTestOneKey : Obligations.KeySkipsTestOneKey := by
  intro x s
  refine ⟨?_, ?_, fun small => ?_, fun large => ?_⟩
  · exact isWordOf_of_encode (by rw [encode, packXNN_toNat, BitVec.toNat_ofNat, BitVec.toNat_ofNat]; omega)
      (decode_encode (.skp x) rfl)
  · exact isWordOf_of_encode (by rw [encode, packXNN_toNat, BitVec.toNat_ofNat, BitVec.toNat_ofNat]; omega)
      (decode_encode (.sknp x) rfl)
  · have key := keyIndex_of_le (s.reg x) small
    refine ⟨⟨_, exec_skp_of_key key, s.skip_pc _, s.skip_keeps _⟩, ⟨_, exec_sknp_of_key key, ?_, s.skip_keeps _⟩⟩
    rw [State.skip_pc, State.keyHeld]
    cases s.keys.getLsbD (s.reg x).toNat <;> rfl
  · have noKey := keyIndex_of_gt (s.reg x) large
    exact ⟨exec_skp_of_noKey noKey, exec_sknp_of_noKey noKey⟩

/-- Settles O49: one register write, and one write of each timer. -/
theorem timerMovesCopyTheValue : Obligations.TimerMovesCopyTheValue := by
  intro x s
  refine ⟨?_, ?_, ?_, exec_writes_reg rfl, ⟨_, rfl, rfl, rfl, s.setDt_keeps _⟩, ⟨_, rfl, rfl, rfl, s.setSt_keeps _⟩⟩
  · exact isWordOf_of_encode (packXNN_classF_toNat x 0x07#8) (decode_encode (.ldVxDt x) rfl)
  · exact isWordOf_of_encode (packXNN_classF_toNat x 0x15#8) (decode_encode (.ldDtVx x) rfl)
  · exact isWordOf_of_encode (packXNN_classF_toNat x 0x18#8) (decode_encode (.ldStVx x) rfl)

/-- Settles O50: the effect is the entry into the wait. -/
theorem keyWaitRemembersTheKeysHeld : Obligations.KeyWaitRemembersTheKeysHeld := by
  intro x s
  refine ⟨?_, _, rfl, rfl, rfl, s.enterWait_keeps _⟩
  exact isWordOf_of_encode (packXNN_classF_toNat x 0x0A#8) (decode_encode (.ldVxK x) rfl)

end Sys2Proof.Machine
end

section
/-!
PROOFS. The sprite draw: the rows of a draw invert the screen's pixels under set sprite bits, and collide where one of
those was lit (R261 to R264).
-/

namespace Sys2Proof.Machine

/-! ## The first row of a sprite and the rows below it -/

/-- In the screen row of its corner a sprite has the bits of its first byte. -/
theorem spriteBit_firstRow (s : State) (a k x0 y0 c : Nat) :
    spriteBit s a (k + 1) x0 (y0 % 32) c (y0 % 32) = columnBit (s.readByte a) x0 c 8 := by
  have bit : 7 - (c + 64 - x0) % 64 < 8 := by omega
  simp [spriteBit, columnBit, bit]

/-- The rows below do not come round to it again: there are fewer than 32. -/
theorem spriteBit_belowFirstRow (s : State) (a k x0 y0 c : Nat) (few : k < 32) :
    spriteBit s a k x0 ((y0 + 1) % 32) c (y0 % 32) = false := by
  have last : (y0 % 32 + 32 - (y0 + 1) % 32) % 32 = 31 := by omega
  simp only [spriteBit, last, Bool.and_eq_false_iff, decide_eq_false_iff_not]
  exact .inl (.inl (by omega))

/-- In every other screen row a sprite has the bits of the rows below its first. -/
theorem spriteBit_otherRow (s : State) (a k x0 y0 c r : Nat) (inFrame : r < 32) (other : r ≠ y0 % 32) :
    spriteBit s a (k + 1) x0 (y0 % 32) c r = spriteBit s (a + 1) k x0 ((y0 + 1) % 32) c r := by
  have below : (r + 32 - y0 % 32) % 32 = (r + 32 - (y0 + 1) % 32) % 32 + 1 := by omega
  simp only [spriteBit, below, Nat.add_lt_add_iff_right, Nat.add_assoc, Nat.add_comm 1]

/-! ## All rows -/

/-- The rows of a sprite invert the pixels under their set bits (R261 to R263). -/
theorem drawRows_pixel (x0 k a y0 : Nat) (d : DrawState) (c r : Nat) (few : k < 32) (hx : x0 < 64) (hc : c < 64)
    (hr : r < 32) :
    (drawRows x0 k a y0 d).state.pixel c r = (d.state.pixel c r ^^ spriteBit d.state a k x0 (y0 % 32) c r) := by
  induction k generalizing a y0 d with
  | zero => simp [drawRows, spriteBit]
  | succ k ih =>
    have row : y0 % 32 < 32 := Nat.mod_lt _ (by decide)
    have same := drawColumns_same (d.state.readByte a) x0 (y0 % 32) 8 d
    rw [drawRows, ih _ _ _ (by omega), same.spriteBit]
    rw [drawColumns_pixel _ _ _ _ _ _ _ hx row hc hr le_rfl]
    by_cases top : r = y0 % 32
    · rw [top, spriteBit_firstRow, spriteBit_belowFirstRow _ _ _ _ _ _ (by omega)]
      simp
    · rw [spriteBit_otherRow _ _ _ _ _ _ _ hr top]
      simp [top]

/-- A lit pixel of the screen lies under a set bit of the sprite of `k` rows at `a` with corner (x0, y0) (R264). -/
def Collides (s : State) (a k x0 y0 : Nat) : Prop :=
  ∃ c r, c < 64 ∧ r < 32 ∧ s.pixel c r = true ∧ spriteBit s a k x0 y0 c r = true

/-- A sprite collides in its first row or, on the screen that row leaves, in the rows below. -/
theorem collides_succ_iff (x0 k a y0 : Nat) (d : DrawState) (few : k < 32) (hx : x0 < 64) :
    Collides d.state a (k + 1) x0 (y0 % 32) ↔
      (∃ c, c < 64 ∧ d.state.pixel c (y0 % 32) = true ∧ columnBit (d.state.readByte a) x0 c 8 = true) ∨
      Collides (drawColumns (d.state.readByte a) x0 (y0 % 32) 8 d).state (a + 1) k x0 ((y0 + 1) % 32) := by
  have row : y0 % 32 < 32 := Nat.mod_lt _ (by decide)
  have same := drawColumns_same (d.state.readByte a) x0 (y0 % 32) 8 d
  have untouched (c r : Nat) (hc : c < 64) (hr : r < 32) (other : r ≠ y0 % 32) :
      (drawColumns (d.state.readByte a) x0 (y0 % 32) 8 d).state.pixel c r = d.state.pixel c r := by
    rw [drawColumns_pixel _ _ _ _ _ _ _ hx row hc hr le_rfl]
    simp [other]
  simp only [Collides, same.spriteBit]
  constructor
  · rintro ⟨c, r, hc, hr, lit, bit⟩
    by_cases top : r = y0 % 32
    · rw [top, spriteBit_firstRow] at bit
      exact .inl ⟨c, hc, top ▸ lit, bit⟩
    · rw [spriteBit_otherRow _ _ _ _ _ _ _ hr top] at bit
      exact .inr ⟨c, r, hc, hr, (untouched c r hc hr top).trans lit, bit⟩
  · rintro (⟨c, hc, lit, bit⟩ | ⟨c, r, hc, hr, lit, bit⟩)
    · exact ⟨c, y0 % 32, hc, row, lit, (spriteBit_firstRow _ _ _ _ _ _).trans bit⟩
    · have other : r ≠ y0 % 32 := by
        rintro rfl
        rw [spriteBit_belowFirstRow _ _ _ _ _ _ few] at bit
        cases bit
      rw [untouched c r hc hr other] at lit
      exact ⟨c, r, hc, hr, lit, (spriteBit_otherRow _ _ _ _ _ _ _ hr other).trans bit⟩

/-- The rows of a sprite note a collision exactly when there is one (R264). -/
theorem drawRows_hit (x0 k a y0 : Nat) (d : DrawState) (few : k < 32) (hx : x0 < 64) :
    (drawRows x0 k a y0 d).hit = true ↔ d.hit = true ∨ Collides d.state a k x0 (y0 % 32) := by
  induction k generalizing a y0 d with
  | zero => simp [drawRows, Collides, spriteBit]
  | succ k ih =>
    have row : y0 % 32 < 32 := Nat.mod_lt _ (by decide)
    rw [drawRows, ih _ _ _ (by omega), drawColumns_hit _ _ _ _ _ hx row le_rfl,
      collides_succ_iff x0 k a y0 d (by omega) hx, or_assoc]

/-! ## The draw -/

/-- A draw reads no row, or rows inside memory: the hypothesis under which it commits (D17). -/
theorem State.drw_passed {s : State} {n : Nibble} (inSpace : n.val = 0 ∨ s.i.toNat + n.val ≤ 0x1000) :
    loadCheck s.iAddr n.val = none :=
  (loadCheck_eq_none _ _).2 inSpace

theorem State.drawn_pixel (s : State) (x y : Reg) (n : Nibble) (c r : Nat) (hc : c < 64) (hr : r < 32) :
    (s.drawn x y n).state.pixel c r =
      (s.pixel c r ^^ spriteBit s s.i.toNat n.val ((s.reg x).toNat % 64) ((s.reg y).toNat % 32) c r) := by
  rw [State.drawn, drawRows_pixel _ _ _ _ _ _ _ (by omega) (Nat.mod_lt _ (by decide)) hc hr, Nat.mod_mod, State.iAddr]

theorem State.drawn_hit (s : State) (x y : Reg) (n : Nibble) :
    (s.drawn x y n).hit = true ↔ Collides s s.i.toNat n.val ((s.reg x).toNat % 64) ((s.reg y).toNat % 32) := by
  rw [State.drawn, drawRows_hit _ _ _ _ _ (by omega) (Nat.mod_lt _ (by decide)), Nat.mod_mod, State.iAddr]
  simp

/-- Settles O42: the flag, the report and the fetch increment write no pixel, so the screen is the drawn one. -/
theorem drawXorsTheSpriteOntoTheScreen : Obligations.DrawXorsTheSpriteOntoTheScreen := by
  intro x y n s inSpace
  have word : IsWordOf (0xD000 + x.val * 0x100 + y.val * 0x10 + n.val) (.drw x y n) :=
    isWordOf_of_encode (packXYN_toNat 0xD#4 x y n) (decode_encode (.drw x y n) rfl)
  have same := s.drawn_same x y n
  refine ⟨word, _, exec_drw_of_passed (State.drw_passed inSpace), s.drawn_pixel x y n, rfl, ?_, same.draw_keeps _⟩
  rw [same]
  rfl

/-- Settles O43: VF is the collision flag, written last. -/
theorem drawFlagsACollision : Obligations.DrawFlagsACollision := by
  intro x y n s t inSpace answer
  rw [exec_drw_of_passed (State.drw_passed inSpace)] at answer
  cases answer
  have flag : ((s.drawn x y n).state.setFlag (s.drawn x y n).hit).reportChanged.advance.reg VF =
      flagByte (s.drawn x y n).hit := State.reg_setFlag_VF _ _
  refine ⟨fun collides => ?_, fun apart => ?_⟩
  · rw [flag, (s.drawn_hit x y n).2 collides]
    rfl
  · have noHit : (s.drawn x y n).hit = false := by
      by_contra hit
      rw [Bool.not_eq_false, s.drawn_hit] at hit
      obtain ⟨c, r, hc, hr, lit, bit⟩ := hit
      rw [apart c r hc hr lit] at bit
      cases bit
    rw [flag, noHit]
    rfl

end Sys2Proof.Machine
end

section
/-!
PROOFS. The key wait: a poll finds the lowest key that went down, only FX0A enters the wait and only such a key ends it
(R48, R296 to R298).
-/

namespace Sys2Proof.Machine

/-! ## The lowest key that went down -/

/-- The key a poll finds went down, and no lower one did. -/
theorem wentDown_of_lowestKey {now prev : Word} {k : Nat} (found : lowestKey (keyEdges now prev) = some k) :
    k < 16 ∧ WentDown now prev k ∧ ∀ j, j < k → ¬ WentDown now prev j := by
  obtain ⟨-, inRange, edge, lowest⟩ := (lowestFrom_spec _ 16 le_rfl).1 k found
  refine ⟨inRange, (keyEdges_bit now prev k inRange).1 edge, fun j below down => ?_⟩
  have edgeBelow := (keyEdges_bit now prev j (by omega)).2 down
  rw [lowest j (by omega) below] at edgeBelow
  cases edgeBelow

/-- A poll that finds none means that none went down. -/
theorem not_wentDown_of_lowestKey {now prev : Word} (missing : lowestKey (keyEdges now prev) = none) (k : Nat)
    (inRange : k < 16) : ¬ WentDown now prev k := by
  intro down
  have edge := (keyEdges_bit now prev k inRange).2 down
  rw [(lowestFrom_spec _ 16 le_rfl).2 missing k (by omega) inRange] at edge
  cases edge

/-- The lowest key that went down is the one a poll finds. -/
theorem lowestKey_of_wentDown {now prev : Word} {k : Nat} (inRange : k < 16) (down : WentDown now prev k)
    (lowest : ∀ j, j < k → ¬ WentDown now prev j) : lowestKey (keyEdges now prev) = some k := by
  cases found : lowestKey (keyEdges now prev) with
  | none => exact absurd down (not_wentDown_of_lowestKey found k inRange)
  | some j =>
    obtain ⟨-, downJ, lowestJ⟩ := wentDown_of_lowestKey found
    obtain below | same | above := Nat.lt_trichotomy j k
    · exact absurd downJ (lowest j below)
    · rw [same]
    · exact absurd down (lowestJ k above)

/-- With no key down there is none to find. -/
theorem lowestKey_of_none {now prev : Word} (noEdge : ∀ k, k < 16 → ¬ WentDown now prev k) :
    lowestKey (keyEdges now prev) = none := by
  cases found : lowestKey (keyEdges now prev) with
  | none => rfl
  | some k =>
    obtain ⟨inRange, down, -⟩ := wentDown_of_lowestKey found
    exact absurd down (noEdge k inRange)

/-! ## A poll -/

theorem State.pollKeys_of_some {s : State} {kw : KeyWait} {k : Nat}
    (found : lowestKey (keyEdges s.keys kw.prev) = some k) :
    s.pollKeys kw = { s.setReg kw.x (BitVec.ofNat 8 k) with wait := none } := by
  simp only [State.pollKeys, found]

theorem State.pollKeys_of_none {s : State} {kw : KeyWait} (missing : lowestKey (keyEdges s.keys kw.prev) = none) :
    s.pollKeys kw = { s with wait := some { x := kw.x, prev := s.keys } } := by
  simp only [State.pollKeys, missing]

/-- A poll writes the waiting register at most. -/
theorem State.reg_pollKeys_other (s : State) (kw : KeyWait) (r : Reg) (other : r ≠ kw.x) :
    (s.pollKeys kw).reg r = s.reg r := by
  cases found : lowestKey (keyEdges s.keys kw.prev) with
  | some k =>
    rw [State.pollKeys_of_some found]
    exact State.reg_setReg_other s kw.x r _ other
  | none =>
    rw [State.pollKeys_of_none found]
    rfl

/-- Settles O51: a step of a waiting core is a poll and the synchronizer. -/
theorem keyWaitPollTakesTheLowestNewKey : Obligations.KeyWaitPollTakesTheLowestNewKey := by
  intro s kw awake waits
  refine ⟨_, step_of_waiting awake waits, by simp [awake], by simp, by simp, by simp, by simp, by simp, by simp, ?_, ?_⟩
  · simp [StepOutput.idle]
  refine ⟨fun r other => State.reg_pollKeys_other s.receive kw r other, by simp, by simp, by simp, by simp, ?_, ?_, ?_⟩
  · exact fun a => State.readByte_of_mem_eq s _ (by simp) (by simp) a
  · intro k inRange down lowest
    have found : lowestKey (keyEdges s.receive.keys kw.prev) = some k := lowestKey_of_wentDown inRange down lowest
    rw [State.pollKeys_of_some found]
    refine ⟨rfl, ?_⟩
    have value : (s.receive.setReg kw.x (BitVec.ofNat 8 k)).reg kw.x = BitVec.ofNat 8 k := State.reg_setReg_same _ _ _
    exact (congrArg BitVec.toNat value).trans (Nat.mod_eq_of_lt (by omega))
  · intro noEdge
    have missing : lowestKey (keyEdges s.receive.keys kw.prev) = none := lowestKey_of_none noEdge
    rw [State.pollKeys_of_none missing]
    exact ⟨rfl, rfl⟩

/-! ## Into the wait and out of it (R298) -/

/-- Only FX0A enters the wait. -/
theorem runs_ldVxK_of_enters {s t : State} (answer : step s = .next t) (noWait : s.wait = none)
    (waits : t.wait ≠ none) : ∃ x, Runs s (.ldVxK x) := by
  cases stepsTo_of_step answer with
  | halted _ => exact absurd noWait waits
  | polled kw _ waited => simp [noWait] at waited
  | raised r _ _ _ => exact absurd noWait waits
  | committed i u runs commits =>
    have enters : (effectsOf s i).wait = true := by
      by_contra silent
      rw [Bool.not_eq_true, ← effectsOf_receive] at silent
      exact waits ((commits.keeps.wait silent).trans noWait)
    obtain ⟨x, rfl⟩ := effectsOf_wait enters
    exact ⟨x, runs⟩

/-- Only a key that went down ends it. -/
theorem wentDown_of_leaves {s t : State} {kw : KeyWait} (answer : step s = .next t) (waits : s.wait = some kw)
    (ended : t.wait = none) : ∃ k, k < 16 ∧ WentDown s.nextInput.keys kw.prev k := by
  cases stepsTo_of_step answer with
  | halted _ => cases waits.symm.trans ended
  | raised r _ noWait _ => cases waits.symm.trans noWait
  | committed i u runs _ =>
    cases waits.symm.trans runs.noWait
  | polled kw' _ waits' =>
    cases waits.symm.trans waits'
    cases found : lowestKey (keyEdges s.receive.keys kw.prev) with
    | some k =>
      obtain ⟨inRange, down, -⟩ := wentDown_of_lowestKey found
      exact ⟨k, inRange, down⟩
    | none =>
      rw [State.pollKeys_of_none found] at ended
      cases ended

/-- With no key pressed the wait goes on, with the inputs after this step's. -/
theorem step_of_waiting_noKey {s : State} {kw : KeyWait} (awake : s.fault = none) (waits : s.wait = some kw)
    (noKey : s.nextInput.keys = 0) :
    ∃ t, step s = .next t ∧ t.fault = none ∧ t.wait = some { x := kw.x, prev := 0 } ∧ t.pc = s.pc ∧
      t.inputs = s.inputs.tail := by
  have missing : lowestKey (keyEdges s.receive.keys kw.prev) = none := by
    refine lowestKey_of_none fun k _ down => ?_
    have held : (0 : Word).getLsbD k = true := noKey ▸ down.1
    simp at held
  refine ⟨_, step_of_waiting awake waits, by simp [awake], ?_, by simp, by simp⟩
  rw [State.pollKeys_of_none missing, ← noKey]
  rfl

/-- While no key is pressed the core polls on, by induction on the number of steps. -/
theorem run_waiting (n : Nat) (s : State) (kw : KeyWait) (awake : s.fault = none) (waits : s.wait = some kw)
    (lined : n ≤ s.inputs.length) (noKey : ∀ inp ∈ s.inputs, inp.keys = 0) :
    ∃ t prev, Host.Core.run core n s = .next t ∧ t.fault = none ∧ t.wait = some { x := kw.x, prev := prev } ∧
      t.pc = s.pc := by
  induction n generalizing s kw with
  | zero => exact ⟨s, kw.prev, rfl, awake, waits, rfl⟩
  | succ n ih =>
    obtain ⟨inp, rest, inputs⟩ : ∃ inp rest, s.inputs = inp :: rest := List.exists_cons_of_length_pos (by omega)
    have released : s.nextInput.keys = 0 := by
      rw [State.nextInput_of_cons inputs]
      exact noKey inp (by simp [inputs])
    obtain ⟨u, answer, awake', waits', pc, left⟩ := step_of_waiting_noKey awake waits released
    rw [inputs, List.tail_cons] at left
    rw [inputs, List.length_cons] at lined
    obtain ⟨t, prev, run, awake'', waits'', pc'⟩ :=
      ih u _ awake' waits' (by rw [left]; omega) fun inp' mem => noKey inp' (by simp [inputs, left ▸ mem])
    exact ⟨t, prev, by rw [run_succ_of_next n s u answer, run], awake'', waits'', pc'.trans pc⟩

/-- Settles O52: its three parts. -/
theorem onlyTheKeyWaitSuspends : Obligations.OnlyTheKeyWaitSuspends :=
  ⟨fun _ _ => runs_ldVxK_of_enters, fun _ _ _ => wentDown_of_leaves, run_waiting⟩

end Sys2Proof.Machine
end

section
/-!
PROOFS. The timer synchronizer in closed form, and a clock that reaches one boundary after another (R340 to R344).
-/

namespace Sys2Proof.Machine

/-- The limits of R8 on the two tick parameters. -/
theorem Config.wf_iff (c : Config) : c.wf = true ↔ 0 < c.tickPeriod ∧ 1 ≤ c.maxCatchup := by
  simp [Config.wf]

/-- The resynchronisation moves a deadline that is still not in the future, and nothing else (R341). -/
theorem Timers.resync_spec (p now : Nat) (t : Timers) :
    (t.resync p now).dt = t.dt ∧ (t.resync p now).st = t.st ∧ (t.resync p now).beep = t.beep ∧
      (t.resync p now).deadline = if t.deadline ≤ now then now + p else t.deadline := by
  unfold Timers.resync
  split <;> exact ⟨rfl, rfl, rfl, rfl⟩

/-- The timers after the synchronizer: the loop in closed form, and then the resynchronisation. -/
theorem State.timersAt_spec (s : State) (now : Nat) (wf : s.cfg.wf = true) :
    (s.timersAt now).dt.toNat = s.dt.toNat - ticksDue s.cfg s.deadline now ∧
    (s.timersAt now).st.toNat = s.st.toNat - ticksDue s.cfg s.deadline now ∧
    (s.timersAt now).deadline =
      (if s.deadline + ticksDue s.cfg s.deadline now * s.cfg.tickPeriod ≤ now then now + s.cfg.tickPeriod
        else s.deadline + ticksDue s.cfg s.deadline now * s.cfg.tickPeriod) ∧
    ((s.timersAt now).beep = true ↔ 1 ≤ s.st.toNat ∧ s.st.toNat ≤ ticksDue s.cfg s.deadline now) := by
  obtain ⟨positive, -⟩ := (Config.wf_iff s.cfg).1 wf
  have due : loopTicks s.cfg.tickPeriod now s.deadline s.cfg.maxCatchup = ticksDue s.cfg s.deadline now := rfl
  obtain ⟨dt, st, deadline, beep⟩ :=
    Timers.catchUp_spec s.cfg.tickPeriod now s.cfg.maxCatchup positive ⟨s.dt, s.st, s.deadline, false⟩
  rw [due] at dt st deadline beep
  simp only [Bool.false_eq_true, false_or] at beep
  obtain ⟨dt', st', beep', deadline'⟩ := Timers.resync_spec s.cfg.tickPeriod now
    (Timers.catchUp s.cfg.tickPeriod now s.cfg.maxCatchup ⟨s.dt, s.st, s.deadline, false⟩)
  rw [deadline] at deadline'
  exact ⟨(congrArg BitVec.toNat dt').trans dt, (congrArg BitVec.toNat st').trans st, deadline', by
    rw [State.timersAt, beep', beep]⟩

/-- Settles O53: the synchronizer writes the timers in closed form, and nothing else. -/
theorem synchronizerCountsCrossedBoundaries : Obligations.SynchronizerCountsCrossedBoundaries := by
  intro s now wf
  obtain ⟨dt, st, deadline, beep⟩ := s.timersAt_spec now wf
  exact ⟨dt, st, deadline, beep, rfl⟩

/-- At the time of the deadline exactly one boundary is crossed. -/
theorem ticksDue_at_deadline (c : Config) (wf : c.wf = true) (deadline : Nat) : ticksDue c deadline deadline = 1 := by
  obtain ⟨-, room⟩ := (Config.wf_iff c).1 wf
  simp [ticksDue, room]

/-- A run of the synchronizer at the time of the deadline: one decrement, one period (R343). -/
theorem State.timerSync_at_deadline (s : State) (wf : s.cfg.wf = true) :
    (s.timerSync s.deadline).dt.toNat = s.dt.toNat - 1 ∧ (s.timerSync s.deadline).st.toNat = s.st.toNat - 1 ∧
      (s.timerSync s.deadline).deadline = s.deadline + s.cfg.tickPeriod := by
  obtain ⟨dt, st, deadline, -⟩ := s.timersAt_spec s.deadline wf
  obtain ⟨positive, -⟩ := (Config.wf_iff s.cfg).1 wf
  rw [ticksDue_at_deadline s.cfg wf] at dt st deadline
  rw [Nat.one_mul, if_neg (by omega)] at deadline
  exact ⟨dt, st, deadline⟩

/-- Settles O54, by induction on the number of boundaries. -/
theorem oneDecrementPerBoundary : Obligations.OneDecrementPerBoundary := by
  intro n s wf
  induction n generalizing s with
  | zero => simp [tickByTick]
  | succ n ih =>
    obtain ⟨dt, st, deadline⟩ := s.timerSync_at_deadline wf
    obtain ⟨dt', st', deadline'⟩ := ih (s.timerSync s.deadline) wf
    rw [tickByTick, dt', st', deadline', dt, st, deadline, State.timerSync_cfg, Nat.succ_mul]
    omega

end Sys2Proof.Machine
end

section
/-!
PROOFS. Reset and the loader (R52, R370 to R373).
-/

namespace Sys2Proof.Machine

/-! ## The reset state, field by field where it is not immediate -/

theorem resetByte_font (c : Config) (k : Fin 80) : resetByte c k.val = c.font[k] := by
  simp [resetByte]

theorem resetByte_of_ge (c : Config) {a : Nat} (past : 80 ≤ a) : resetByte c a = 0 := by
  simp [resetByte, Nat.not_lt.2 past]

theorem State.resetAt_reg (c : Config) (now0 : Nat) (x : Reg) : (State.resetAt c now0).reg x = 0 := by
  simp [State.reg, State.resetAt]

theorem State.resetAt_stack (c : Config) (now0 : Nat) (k : Fin 16) : (State.resetAt c now0).stack[k] = 0 := by
  simp [State.resetAt]

/-- A screen of dark rows shows no pixel. -/
theorem State.pixel_of_dark {s : State} (dark : s.fb = Vector.replicate 32 0) (x y : Nat) : s.pixel x y = false := by
  simp [State.pixel, dark]

/-- Settles O55: nothing is stored, so memory reads as the font and zeros; every other field is written out. -/
theorem resetStateHoldsTheTable : Obligations.ResetStateHoldsTheTable := by
  exact ⟨resetByte_font standardConfig, fun _ => resetByte_of_ge standardConfig, State.resetAt_reg _ _, rfl, rfl,
    State.resetAt_stack _ _, rfl, rfl, rfl, State.pixel_of_dark rfl, rfl, rfl, rfl, rfl, rfl, rfl⟩

/-- Settles O56: the ROM's bytes are stored over the reset state, whose other fields a store leaves alone. -/
theorem bootLoadsTheRom : Obligations.BootLoadsTheRom := by
  intro c rom now0 nonempty fits
  have inSpace : 0x200 + rom.length ≤ 0x1000 := by omega
  have outside (a : Nat) (unloaded : ¬ (0x200 ≤ a ∧ a < 0x200 + rom.length)) :
      ((State.resetAt c now0).storeBytes programBase rom).readByte a = resetByte c a :=
    State.readByte_storeBytes_outside _ _ _ _ unloaded
  refine ⟨_, State.loadRom_ok _ rom nonempty fits, fun k hk => ?_, fun k => ?_, fun a pastFont unloaded => ?_,
    fun x => ?_, State.storeBytes_i _ _ _, State.storeBytes_pc _ _ _, fun k => ?_, State.storeBytes_sp _ _ _,
    State.storeBytes_dt _ _ _, State.storeBytes_st _ _ _, State.pixel_of_dark (State.storeBytes_fb _ _ _),
    State.storeBytes_keys _ _ _, State.storeBytes_deadline _ _ _, State.storeBytes_wait _ _ _,
    State.storeBytes_fault _ _ _, State.storeBytes_cfg _ _ _⟩
  · exact State.readByte_storeBytes_inside _ _ _ k hk (State.resetAt_memWf c now0) inSpace
  · rw [outside k.val (by omega), resetByte_font]
  · rw [outside a unloaded, resetByte_of_ge c pastFont]
  · rw [State.reg_storeBytes, State.resetAt_reg]
  · rw [State.storeBytes_stack, State.resetAt_stack]

/-- Settles O57: the loader's two cases. -/
theorem malformedRomIsRefused : Obligations.MalformedRomIsRefused := by
  intro c rom now0
  refine ⟨⟨fun refused => ?_, State.loadRom_error _ rom⟩, rfl⟩
  by_contra legal
  have fits : rom.length ≤ 3584 := by omega
  rw [boot, State.loadRom_ok _ rom (by omega) fits] at refused
  cases refused

/-- Settles O58: memory lists nothing, PC is 0x200, and there is neither a wait nor a fault. -/
theorem resetMeetsTheInvariants : Obligations.ResetMeetsTheInvariants := by
  refine ⟨⟨?_, State.resetAt_memWf _ _, fun _ _ _ => rfl, fun waits => absurd rfl waits⟩, ?_, fun k => ?_⟩
  · exact (Config.wf_iff _).2 ⟨Nat.succ_pos _, Nat.le_add_left 1 _⟩
  · decide
  · exact (congrArg BitVec.toNat (State.resetAt_stack standardConfig Config.resetTime k)).trans_le (by decide)

end Sys2Proof.Machine
end
